-- ==== Sys2Proof/Word.lean ====
section
/-!
DEFINITION. The word types of the core and the small closed sets of names its operands use.
Every value of the core is unsigned and has a fixed width (00_scope.md R8, R10).
-/
namespace Sys2Proof

/-- `u8`: one byte of OAM or of pattern memory (R8). -/
abbrev Byte := BitVec 8

/-- `u16`: a pattern-memory address (R8). -/
abbrev U16 := BitVec 16

/-- `u32`: a shifter register, a packed row of 8 pixel nibbles, a scanline or a row operand (R8). -/
abbrev U32 := BitVec 32

/-- `u64`: a command word (30_encoding.md R71). -/
abbrev CmdWord := BitVec 64

/-- Field L of a command word, the source's `spriteSizeLarge` (R73): `small` is L = 0 (8×8 sprites),
`large` is L = 1 (8×16 sprites). -/
inductive SpriteSize where
  | small
  | large
deriving DecidableEq, Repr

/-- Field T of a command word, the source's `patternTableBase` (R73): `lower` is T = 0 (base 0x0000),
`upper` is T = 1 (base 0x1000). -/
inductive TableSelect where
  | lower
  | upper
deriving DecidableEq, Repr

/-- The two address spaces the core reaches (20_memory.md R50). -/
inductive Space where
  | oam
  | pattern
deriving DecidableEq, Repr

end Sys2Proof
end

