-- ==== Sys2Proof/AsmSyntax.lean ====
section
/-!
DEFINITION. One line of assembly as its writer gives it (30_encoding.md R84, R85): operands are plain
numbers, which may be out of their field's range. WellFormed.lean says which lines an assembler
accepts, and Decode.lean turns an accepted line into command words.
-/
namespace Sys2Proof

inductive AsmLine where
  | nop
  | setlo (value : Nat)
  | sethi (value : Nat)
  | shl4
  | getpix (fx : Nat)
  | gethi
  | getlo
  /-- `EVAL.8`/`EVAL.16`. A large-mode line may leave `Tt` out (R84: "writes `T0` unless told
  otherwise"). -/
  | eval (size : SpriteSize) (table : Option TableSelect) (scanline : Nat)
  /-- `FETCH.8`/`FETCH.16`, with `Tt` as for EVAL. -/
  | fetch (size : SpriteSize) (table : Option TableSelect) (idx row : Nat)
  /-- Pseudo-command `LOADBG hi, lo` (R85). -/
  | loadbg (hi lo : Nat)
  /-- Pseudo-command `ADVANCE n` (R85). -/
  | advance (n : Nat)
  /-- Pseudo-command `IDLE` (R85). -/
  | idle
deriving DecidableEq, Repr

end Sys2Proof
end

