-- ==== Sys2Proof/Syntax.lean ====
section
/-!
DEFINITION. The commands of the core: one constructor per row of spec/opcode_table.json, in the
table's order (30_encoding.md R80). Each operand has exactly the width of its field (R72), so every
term is a command that can be encoded and no reserved word is one.
-/
namespace Sys2Proof

inductive Instr where
  /-- `NOP` (43_control.md R190). -/
  | nop
  /-- `SETLO value`, the source's `setLow32(value: u32)` (40_bg_shifter.md R102). -/
  | setlo (imm : U32)
  /-- `SETHI value`, the source's `setHigh32(value: u32)` (R103). -/
  | sethi (imm : U32)
  /-- `SHL4`, the source's `shiftLeft4()` (R104). -/
  | shl4
  /-- `GETPIX fx`, the source's `getPixel(fineX: u8)` (R106, R107). -/
  | getpix (fx : Byte)
  /-- `GETHI`, the source's `getHigh32()` (R109). -/
  | gethi
  /-- `GETLO`, the source's `getLow32()` (R110). -/
  | getlo
  /-- `EVAL.8/EVAL.16 Tt, scanline`, the source's `evaluateScanline` (41_sprite_eval.md R130). -/
  | eval (size : SpriteSize) (table : TableSelect) (scanline : U32)
  /-- `FETCH.8/FETCH.16 Tt, idx, row`, the source's `fetchSpritePattern` (42_pattern_fetch.md R160). -/
  | fetch (size : SpriteSize) (table : TableSelect) (idx : BitVec 6) (row : U32)
deriving DecidableEq, Repr

end Sys2Proof
end

