-- ==== Sys2Proof/WellFormed.lean ====
section
/-!
DEFINITION. Which lines of assembly are well formed: "An operand out of its field's range is an
assembly error, and the assembler emits no word for it" (30_encoding.md R84). A command `Instr` needs no
check, because its operands have the widths of their fields. The check on raw command words (R77,
R78, R83: which words are reserved) stands beside the decoder, in Decode.lean (`reservedWord`).
-/
namespace Sys2Proof

/-- A 32-bit operand, field IMM (R76, R84: 0 to 0xFFFFFFFF). -/
def fitsImm (n : Nat) : Bool := decide (n ≤ 0xFFFFFFFF)

/-- A fine-X operand, field FX (R74, R84: 0 to 255). -/
def fitsFx (n : Nat) : Bool := decide (n ≤ 255)

/-- An OAM entry index, field IDX (R75, R84: 0 to 63). -/
def fitsIdx (n : Nat) : Bool := decide (n ≤ 63)

/-- A small-mode line must name its table; a large-mode line may leave it out (R84). DESIGN CHOICE (log entry
15), safe. -/
def tableGiven (size : SpriteSize) (table : Option TableSelect) : Bool :=
  match size, table with
  | .small, none => false
  | .small, some _ => true
  | .large, _ => true

/-- The repeat count of `ADVANCE n` (R85: 1 <= n <= 8). -/
def fitsAdvance (n : Nat) : Bool := decide (1 ≤ n) && decide (n ≤ 8)

/-- The lines an assembler accepts (R84, R85). -/
def AsmLine.wf : AsmLine → Bool
  | .nop => true
  | .setlo v => fitsImm v
  | .sethi v => fitsImm v
  | .shl4 => true
  | .getpix fx => fitsFx fx
  | .gethi => true
  | .getlo => true
  | .eval size table scanline => tableGiven size table && fitsImm scanline
  | .fetch size table idx row => tableGiven size table && fitsIdx idx && fitsImm row
  | .loadbg hi lo => fitsImm hi && fitsImm lo
  | .advance n => fitsAdvance n
  | .idle => true

end Sys2Proof
end

