-- ==== Sys2Proof/Decode.lean ====
section
/-!
DEFINITION. Command words and commands (30_encoding.md): the fields of a word (R72), the opcode map
(R81), the decoder (R82), the reserved words (R83), the encoder, and the assembler (R84, R85).
-/
namespace Sys2Proof

/-! ### The fields of a command word (R72) -/

/-- OP, bits 3:0. -/
def fieldOp (w : CmdWord) : BitVec 4 := w.extractLsb' 0 4

/-- L, bit 4, as the sprite size it selects (R73). -/
def fieldL (w : CmdWord) : SpriteSize := if w.getLsbD 4 then .large else .small

/-- T, bit 5, as the pattern table it selects (R73). -/
def fieldT (w : CmdWord) : TableSelect := if w.getLsbD 5 then .upper else .lower

/-- RES0, bits 7:6 (R77). -/
def fieldRes0 (w : CmdWord) : BitVec 2 := w.extractLsb' 6 2

/-- FX, bits 15:8 (R74). -/
def fieldFx (w : CmdWord) : Byte := w.extractLsb' 8 8

/-- IDX, bits 21:16 (R75). -/
def fieldIdx (w : CmdWord) : BitVec 6 := w.extractLsb' 16 6

/-- RES1, bits 31:22 (R77). -/
def fieldRes1 (w : CmdWord) : BitVec 10 := w.extractLsb' 22 10

/-- IMM, bits 63:32 (R76). -/
def fieldImm (w : CmdWord) : U32 := w.extractLsb' 32 32

/-! ### The decoder -/

/-- One row of the opcode map (R81). A word `w` selects the row when `w & mask` is `pattern` (the
spec's `match`); `build` then reads the operands from the word's fields (R82). -/
structure OpcodeRow where
  mnemonic : String
  pattern : CmdWord
  mask : CmdWord
  build : CmdWord → Instr

/-- Whether a word selects a row (R81). -/
def OpcodeRow.selects (r : OpcodeRow) (w : CmdWord) : Bool := (w &&& r.mask) == r.pattern

/-- The opcode map of R81, row by row. -/
def opcodeRows : List OpcodeRow :=
  [ ⟨"NOP",    0x0000000000000000#64, 0xFFFFFFFFFFFFFFFF#64, fun _ => .nop⟩,
    ⟨"SETLO",  0x0000000000000001#64, 0x00000000FFFFFFFF#64, fun w => .setlo (fieldImm w)⟩,
    ⟨"SETHI",  0x0000000000000002#64, 0x00000000FFFFFFFF#64, fun w => .sethi (fieldImm w)⟩,
    ⟨"SHL4",   0x0000000000000003#64, 0xFFFFFFFFFFFFFFFF#64, fun _ => .shl4⟩,
    ⟨"GETPIX", 0x0000000000000004#64, 0xFFFFFFFFFFFF00FF#64, fun w => .getpix (fieldFx w)⟩,
    ⟨"GETHI",  0x0000000000000005#64, 0xFFFFFFFFFFFFFFFF#64, fun _ => .gethi⟩,
    ⟨"GETLO",  0x0000000000000006#64, 0xFFFFFFFFFFFFFFFF#64, fun _ => .getlo⟩,
    ⟨"EVAL",   0x0000000000000007#64, 0x00000000FFFFFFCF#64,
      fun w => .eval (fieldL w) (fieldT w) (fieldImm w)⟩,
    ⟨"FETCH",  0x0000000000000008#64, 0x00000000FFC0FFCF#64,
      fun w => .fetch (fieldL w) (fieldT w) (fieldIdx w) (fieldImm w)⟩ ]

/-- What a word decodes to: a command, or `Reserved(w)` (R82). -/
inductive Decoded where
  | command (i : Instr)
  | reserved (w : CmdWord)
deriving DecidableEq, Repr

/-- The decode function of R82: the first row the word selects, else `Reserved(w)`. -/
def decode (w : CmdWord) : Decoded :=
  match opcodeRows.find? (fun r => r.selects w) with
  | some r => .command (r.build w)
  | none => .reserved w

/-! ### The reserved words (R77, R78, R83), said by field and not by the map -/

/-- OP is one of 0x9 to 0xF. -/
def opReserved (w : CmdWord) : Bool := decide (8 < (fieldOp w).toNat)

/-- A RES0 or a RES1 bit is set (R77). -/
def reservedBitSet (w : CmdWord) : Bool := fieldRes0 w != 0#2 || fieldRes1 w != 0#10

/-- The opcodes that use L and T: EVAL and FETCH (R80, column "fields used"). -/
def opUsesLT (op : BitVec 4) : Bool := op == 7#4 || op == 8#4

/-- The opcodes that use FX: GETPIX (R80). -/
def opUsesFx (op : BitVec 4) : Bool := op == 4#4

/-- The opcodes that use IDX: FETCH (R80). -/
def opUsesIdx (op : BitVec 4) : Bool := op == 8#4

/-- The opcodes that use IMM: SETLO, SETHI, EVAL and FETCH (R80). -/
def opUsesImm (op : BitVec 4) : Bool := op == 1#4 || op == 2#4 || op == 7#4 || op == 8#4

/-- A field that the opcode does not use is not 0 (R78). -/
def unusedFieldSet (w : CmdWord) : Bool :=
  (!opUsesLT (fieldOp w) && (w.getLsbD 4 || w.getLsbD 5)) ||
  (!opUsesFx (fieldOp w) && fieldFx w != 0#8) ||
  (!opUsesIdx (fieldOp w) && fieldIdx w != 0#6) ||
  (!opUsesImm (fieldOp w) && fieldImm w != 0#32)

/-- The reserved encodings, as R83 lists them. -/
def reservedWord (w : CmdWord) : Bool := opReserved w || reservedBitSet w || unusedFieldSet w

/-! ### The encoder -/

/-- Bit L of a sprite size (R73). -/
def sizeBit : SpriteSize → BitVec 1
  | .small => 0#1
  | .large => 1#1

/-- Bit T of a table select (R73). -/
def tableBit : TableSelect → BitVec 1
  | .lower => 0#1
  | .upper => 1#1

/-- A command word from its fields, each at its place in the format, with RES1 and RES0 zero (R72, R77). -/
def packWord (imm : U32) (idx : BitVec 6) (fx : Byte) (t l : BitVec 1) (op : BitVec 4) : CmdWord :=
  imm.setWidth 64 <<< 32 ||| idx.setWidth 64 <<< 16 ||| fx.setWidth 64 <<< 8 |||
    t.setWidth 64 <<< 5 ||| l.setWidth 64 <<< 4 ||| op.setWidth 64

/-- The word of a command, by the format of R72 and the opcodes of R80; unused fields are 0 (R78). -/
def encode : Instr → CmdWord
  | .nop => packWord 0 0 0 0 0 0x0#4
  | .setlo imm => packWord imm 0 0 0 0 0x1#4
  | .sethi imm => packWord imm 0 0 0 0 0x2#4
  | .shl4 => packWord 0 0 0 0 0 0x3#4
  | .getpix fx => packWord 0 0 fx 0 0 0x4#4
  | .gethi => packWord 0 0 0 0 0 0x5#4
  | .getlo => packWord 0 0 0 0 0 0x6#4
  | .eval size table scanline => packWord scanline 0 0 (tableBit table) (sizeBit size) 0x7#4
  | .fetch size table idx row => packWord row idx 0 (tableBit table) (sizeBit size) 0x8#4

/-! ### The assembler (R84, R85) -/

/-- The table a line's `Tt` names, `T0` where it names none (R84). -/
def tableOrLower (table : Option TableSelect) : TableSelect := table.getD .lower

/-- The commands a line stands for; a pseudo-command stands for those of R85. -/
def AsmLine.expand : AsmLine → List Instr
  | .nop => [.nop]
  | .setlo v => [.setlo (BitVec.ofNat 32 v)]
  | .sethi v => [.sethi (BitVec.ofNat 32 v)]
  | .shl4 => [.shl4]
  | .getpix fx => [.getpix (BitVec.ofNat 8 fx)]
  | .gethi => [.gethi]
  | .getlo => [.getlo]
  | .eval size table scanline => [.eval size (tableOrLower table) (BitVec.ofNat 32 scanline)]
  | .fetch size table idx row =>
    [.fetch size (tableOrLower table) (BitVec.ofNat 6 idx) (BitVec.ofNat 32 row)]
  | .loadbg hi lo => [.sethi (BitVec.ofNat 32 hi), .setlo (BitVec.ofNat 32 lo)]
  | .advance n => List.replicate n .shl4
  | .idle => [.nop]

/-- The words an assembler emits for a line: none for a line it does not accept (R84). -/
def assemble (line : AsmLine) : Option (List CmdWord) :=
  if line.wf then some (line.expand.map encode) else none

/-! ### The text of a line (R84: "a mnemonic, then its operands separated by commas. Numbers are decimal,
or hex with `0x`"). Blanks and the case of hex digits are the model's: DESIGN CHOICE (log entry 15), safe. -/

/-- The value of a decimal or hexadecimal digit. -/
def digitValue (c : Char) : Option Nat :=
  if 48 ≤ c.toNat ∧ c.toNat ≤ 57 then some (c.toNat - 48)
  else if 97 ≤ c.toNat ∧ c.toNat ≤ 102 then some (c.toNat - 87)
  else if 65 ≤ c.toNat ∧ c.toNat ≤ 70 then some (c.toNat - 55)
  else none

/-- The value of a run of digits read after the value `n`, `none` if one of them is no digit of the base. -/
def readDigits (base n : Nat) : List Char → Option Nat
  | [] => some n
  | c :: cs =>
    match digitValue c with
    | some d => if d < base then readDigits base (base * n + d) cs else none
    | none => none

/-- A number: decimal, or hex after `0x`. It has at least one digit. -/
def readNumber : List Char → Option Nat
  | [] => none
  | ['0', 'x'] => none
  | '0' :: 'x' :: c :: cs => readDigits 16 0 (c :: cs)
  | c :: cs => readDigits 10 0 (c :: cs)

/-- A table operand, `T0` or `T1`. -/
def readTable : List Char → Option TableSelect
  | ['T', '0'] => some .lower
  | ['T', '1'] => some .upper
  | _ => none

/-- The text between commas. -/
def splitCommas : List Char → List (List Char)
  | [] => [[]]
  | c :: cs =>
    if c = ',' then [] :: splitCommas cs
    else
      match splitCommas cs with
      | [] => [[c]]
      | f :: fs => (c :: f) :: fs

/-- The text without the blanks at its two ends. -/
def trimBlanks (cs : List Char) : List Char :=
  ((cs.dropWhile (· == ' ')).reverse.dropWhile (· == ' ')).reverse

/-- The operands of a line, from the text after its mnemonic. -/
def operandTexts (cs : List Char) : List (List Char) :=
  if trimBlanks cs = [] then [] else (splitCommas cs).map trimBlanks

/-- A line with no operand. -/
def readNone (line : AsmLine) : List (List Char) → Option AsmLine
  | [] => some line
  | _ => none

/-- A line with one number. -/
def readOne (line : Nat → AsmLine) : List (List Char) → Option AsmLine
  | [a] => (readNumber a).map line
  | _ => none

/-- A line with two numbers. -/
def readTwo (line : Nat → Nat → AsmLine) : List (List Char) → Option AsmLine
  | [a, b] => (readNumber a).bind fun m => (readNumber b).map (line m)
  | _ => none

/-- The operands of EVAL: `Tt, scanline`, or `scanline` alone (AsmLine.wf says in which mode). -/
def readEval (size : SpriteSize) : List (List Char) → Option AsmLine
  | [t, a] => (readTable t).bind fun tt => (readNumber a).map (.eval size (some tt))
  | [a] => (readNumber a).map (.eval size none)
  | _ => none

/-- The operands of FETCH: `Tt, idx, row`, or `idx, row` alone. -/
def readFetch (size : SpriteSize) : List (List Char) → Option AsmLine
  | [t, a, b] => (readTable t).bind fun tt => readTwo (.fetch size (some tt)) [a, b]
  | [a, b] => readTwo (.fetch size none) [a, b]
  | _ => none

/-- The mnemonics of R84 and R85, with what reads each one's operands. -/
def asmForms : List (List Char × (List (List Char) → Option AsmLine)) :=
  [ (['N', 'O', 'P'], readNone .nop),
    (['S', 'E', 'T', 'L', 'O'], readOne .setlo),
    (['S', 'E', 'T', 'H', 'I'], readOne .sethi),
    (['S', 'H', 'L', '4'], readNone .shl4),
    (['G', 'E', 'T', 'P', 'I', 'X'], readOne .getpix),
    (['G', 'E', 'T', 'H', 'I'], readNone .gethi),
    (['G', 'E', 'T', 'L', 'O'], readNone .getlo),
    (['E', 'V', 'A', 'L', '.', '8'], readEval .small),
    (['E', 'V', 'A', 'L', '.', '1', '6'], readEval .large),
    (['F', 'E', 'T', 'C', 'H', '.', '8'], readFetch .small),
    (['F', 'E', 'T', 'C', 'H', '.', '1', '6'], readFetch .large),
    (['L', 'O', 'A', 'D', 'B', 'G'], readTwo .loadbg),
    (['A', 'D', 'V', 'A', 'N', 'C', 'E'], readOne .advance),
    (['I', 'D', 'L', 'E'], readNone .idle) ]

/-- A line of text as an abstract line, `none` where it has none of the forms. -/
def parseLine (text : List Char) : Option AsmLine :=
  let cs := trimBlanks text
  match asmForms.find? fun f => f.1 == cs.takeWhile (· != ' ') with
  | some f => f.2 (operandTexts (cs.dropWhile (· != ' ')))
  | none => none

/-- The words an assembler emits for a line of text: none where the line is an assembly error. -/
def assembleText (text : List Char) : Option (List CmdWord) := (parseLine text).bind assemble

/-! ### The host's view of the decoder -/

/-- The 64-bit command word whose low `nbits` bits are those of `w` and whose other bits are 0. DESIGN CHOICE
(log entry 11), safe. -/
def tableWord (nbits w : Nat) : CmdWord := (BitVec.ofNat nbits w).setWidth 64

/-- The command the decoder reads from a word of `nbits` bits, numbered as spec/opcode_table.json
numbers them. Every command word has 64 bits (R71), so a longer one is no word of the core. -/
def decodeTableWord (nbits w : Nat) : Option Instr :=
  if nbits ≤ 64 then
    match decode (tableWord nbits w) with
    | .command i => some i
    | .reserved _ => none
  else none

end Sys2Proof
end

