-- ==== Sys2Proof/Config.lean ====
section
/-!
DEFINITION. The values the spec leaves open, as constants with no body: nothing can be proved of
them beyond their type, so a claim that mentions one holds for every value of it. The core has no
other parameter (00_scope.md R8: every size is fixed, and the definitions use the sizes of R8
as literals).
-/
namespace Sys2Proof

/-- `draw u4` of GETPIX with fx in 8 to 255 (40_bg_shifter.md R107, 93 U1). The argument is the
number of the draw, so each occurrence has a value of its own (00_scope.md R14). DESIGN CHOICE
(log entry 2): a free value; safe for a claim about one run. -/
opaque Config.drawNibble : Nat → BitVec 4

/-- `draw u32` of FETCH with row >= height (42_pattern_fetch.md R168, 93 S1). The argument is the
number of the draw (00_scope.md R14). DESIGN CHOICE (log entry 2): a free value; safe for a claim about
one run. -/
opaque Config.drawRow : Nat → U32

/-- What a byte of memory the host has not written reads as, by address space and address. For OAM
it is the power-up content, 256 drawn bytes (10_state.md R44, 93 S2). For pattern memory it is
the part of the step parameter `PAT` that the state does not list (00_scope.md R9, 93 U5). It
depends on the address alone, so two reads of one byte agree (20_memory.md R52). DESIGN CHOICE (log
entry 3): a free value; safe for a claim about one machine. -/
opaque Config.unlistedByte : Space → Nat → Byte

end Sys2Proof
end

