-- ==== Sys2Proof/Machine/State.lean ====
section
/-!
DEFINITION. The state of the core (10_state.md), as plain data, with the host's side of its interface
(60_exceptions.md R213), the state after reset, and the reasons a step can stop. INVENTORY.md's State
section lists every field with its rule and its reset value.
-/
namespace Sys2Proof.Machine

/-- A memory: (address, byte) pairs in strictly rising address order, one for each byte the host has
written. `Memory.wf` (Machine/Ops.lean) says the form. DESIGN CHOICE (log entry 10), safe: a listed byte may
equal the drawn byte it hides. -/
abbrev Memory := List Host.Cell

/-- One sprite slot (10_state.md R24 to R28). -/
structure Slot where
  /-- PATTERN: the packed row of 8 pixel nibbles (R25). -/
  pattern : U32
  /-- POSX: the OAM entry's X byte (R26). -/
  posX : Byte
  /-- PRIO: bit 5 of the OAM entry's attribute byte, unmodified (R27). A 1-bit register is a Bool: DESIGN
  CHOICE (log entry 14), safe. -/
  prio : Bool
  /-- OAMIDX: the number of the OAM entry the slot was filled from (R28). -/
  oamIdx : BitVec 6
deriving DecidableEq, Repr

/-- The all-zero slot: the reset value (R43) and what EVAL leaves in an unfilled slot (R135). -/
def Slot.zero : Slot := ⟨0#32, 0#8, false, 0#6⟩

/-- What the host may do between two steps (R213): write a byte of OAM (20_memory.md R56) or change
the pattern-memory function `PAT` at an address (R57). DESIGN CHOICE (log entry 4), safe: a new `PAT` is
given byte by byte. -/
inductive HostAction where
  | writeOam (a : BitVec 8) (v : Byte)
  | writePat (a : U16) (v : Byte)
deriving DecidableEq, Repr

/-- What the host gives the core for one step (R213): its actions since the step before, in order; the
reset input (70_reset_and_hazards.md R230); and the command word, `none` where the valid strobe is
low (30_encoding.md R70). -/
structure HostInput where
  actions : List HostAction
  reset : Bool
  cmd : Option CmdWord
deriving DecidableEq, Repr

/-- The state. The first six fields are the core's architectural state, `pat` is the step parameter
`PAT`, `out` is the result port, `refused` is the spec's model-only mark, and the last two are this
model's own: the draws made so far, and the host's inputs still to come. -/
structure State where
  /-- HIGH32, the leading register of the background shifter (R21). -/
  high32 : U32
  /-- LOW32, the trailing register (R22). -/
  low32 : U32
  /-- SLOT[0..7] (R24). -/
  slots : Vector Slot 8
  /-- SPRITE_COUNT (R29). -/
  spriteCount : Byte
  /-- OVERFLOW (R30). -/
  overflow : Bool
  /-- OAM, 256 bytes (R32). -/
  oam : Memory
  /-- The pattern memory of the step, 65536 bytes (R35, 00_scope.md R9). DESIGN CHOICE (log entry 4), safe: it
  is a parameter in the spec and plain data here. -/
  pat : Memory
  /-- The result port `out` with its valid bit: the result of the last step's command, `none` where it
  had none (R37, 00_scope.md R12). DESIGN CHOICE (log entry 8), unsafe for a claim that reads it after the
  step it belongs to (R246). -/
  out : Option U32
  /-- REFUSED (R38). At power-on it is 0: DEDUCED (log entry 9), safe. -/
  refused : Bool
  /-- How many values have been drawn: the number of the next draw (00_scope.md R14). The model's own:
  DESIGN CHOICE (log entry 2), safe for a claim about one run. -/
  draws : Nat
  /-- The host's inputs of the steps to come, the next one first (R20, R213). The model's own: DESIGN CHOICE
  (log entry 1), safe. -/
  inputs : List HostInput
deriving DecidableEq, Repr

/-- The state right after reset at power-on (70_reset_and_hazards.md R230, R231; 10_state.md R42 to
R45). No byte of OAM or of pattern memory is listed: OAM is drawn at power-up (R44) and `PAT` is
the host's. No input is pending. The reset values are the spec's own decision (R42, R43, R235; log entry
18); `out`, `refused`, `draws`, `inputs` and `pat` are log entries 8, 9, 2, 1 and 4. -/
def State.reset : State where
  high32 := 0#32
  low32 := 0#32
  slots := Vector.replicate 8 Slot.zero
  spriteCount := 0#8
  overflow := false
  oam := []
  pat := []
  out := none
  refused := false
  draws := 0
  inputs := []

/-- The reasons a step faults: none. The core "raises no exception, takes no trap and has no trap
mechanism" (60_exceptions.md R200), and no address it forms lies outside its memories (20_memory.md
R51, R58), so nothing raises a fault. DEDUCED (log entry 17), safe. -/
inductive Fault where
deriving DecidableEq, Repr

/-- The reasons a step is refused. -/
inductive Refusal where
  /-- Raised by `exec` for an instruction that has no meaning yet; no arm raises it. Safe: the run
  stops. -/
  | notModelled (mnemonic : String)
  /-- Raised by a step whose command word `w` is reserved: the spec's `refuse(ReservedCommand(w))`
  (43_control.md R191, 93 S3 and S4). `after` is the state the step leaves, with the mark REFUSED
  set. Safe: the run stops (R192). DESIGN CHOICE (log entry 5): the refusal carries the state. -/
  | reservedCommand (w : CmdWord) (after : State)
  /-- Raised by every step from a state whose mark REFUSED is set, which "has no meaning"
  (10_state.md R38). `after` is the state with the mark kept, and with the registers reset if the
  host asserts reset (R45). Safe: the run stops. DESIGN CHOICE (log entry 5). -/
  | refusedState (after : State)
deriving DecidableEq, Repr

end Sys2Proof.Machine
end

