-- ==== Sys2Proof/Machine/Ops.lean ====
section
/-!
DEFINITION. The named operations on the state: memory (20_memory.md), the shifter registers, the result
port and the draws (00_scope.md R12, R14), the evaluation results, reset (70_reset_and_hazards.md),
the mark REFUSED, the host's inputs (60_exceptions.md R213), and the output ports (10_state.md R37).
The core takes no exception (R200), so there is no exception entry and no return from one.
-/
namespace Sys2Proof.Machine

/-! ### Memory -/

/-- The byte listed at an address, `none` where the host has written none. -/
def Memory.read : Memory → Nat → Option Byte
  | [], _ => none
  | (b, v) :: m, a => if a = b then some v else Memory.read m a

/-- Writes a byte, keeping the addresses strictly rising. -/
def Memory.write : Memory → Nat → Byte → Memory
  | [], a, v => [(a, v)]
  | (b, w) :: m, a, v =>
    if a < b then (a, v) :: (b, w) :: m
    else if a = b then (a, v) :: m
    else (b, w) :: Memory.write m a v

/-- The canonical form of a memory of `size` bytes: addresses below `size`, strictly rising. -/
def Memory.wf (size : Nat) (m : Memory) : Bool :=
  m.all (fun c => decide (c.1 < size)) && decide (m.Pairwise (fun c d => c.1 < d.1))

/-- What the core reads at an address of a space: the byte the host has written, else the open value of
Config. -/
def Memory.readByte (space : Space) (m : Memory) (a : Nat) : Byte :=
  (Memory.read m a).getD (Config.unlistedByte space a)

/-- `MemRead_OAM(a, 1)` (00_scope.md R13, 20_memory.md R51). -/
def State.memReadOam (s : State) (a : BitVec 8) : Byte := Memory.readByte .oam s.oam a.toNat

/-- `MemRead_PAT(addr, 1) = PAT(addr)` (R13, R52). -/
def State.memReadPat (s : State) (a : U16) : Byte := Memory.readByte .pattern s.pat a.toNat

/-- `MemWrite_OAM(a, 1, v)`, a host action (20_memory.md R56). -/
def State.memWriteOam (s : State) (a : BitVec 8) (v : Byte) : State :=
  { s with oam := Memory.write s.oam a.toNat v }

/-- The host changes `PAT` at one address (R57). -/
def State.memWritePat (s : State) (a : U16) (v : Byte) : State :=
  { s with pat := Memory.write s.pat a.toNat v }

/-! ### Registers, the result port and draws -/

/-- `HIGH32 <- v`. -/
def State.setHigh32 (s : State) (v : U32) : State := { s with high32 := v }

/-- `LOW32 <- v`. -/
def State.setLow32 (s : State) (v : U32) : State := { s with low32 := v }

/-- `out <- v` (00_scope.md R12). -/
def State.result (s : State) (v : U32) : State := { s with out := some v }

/-- The step produces no result (R12). -/
def State.noResult (s : State) : State := { s with out := none }

/-- One value has been drawn, so the next draw is another (R14). -/
def State.drawn (s : State) : State := { s with draws := s.draws + 1 }

/-- `out <- zext_32(draw u4)` (40_bg_shifter.md R107). -/
def State.drawNibbleResult (s : State) : State :=
  (s.result ((Config.drawNibble s.draws).setWidth 32)).drawn

/-- `out <- draw u32` (42_pattern_fetch.md R168). -/
def State.drawRowResult (s : State) : State := (s.result (Config.drawRow s.draws)).drawn

/-- Writes everything EVAL writes but `out`: SLOT[0..7], SPRITE_COUNT and OVERFLOW (41_sprite_eval.md
R136). -/
def State.setEvaluation (s : State) (slots : Vector Slot 8) (count : Byte) (overflow : Bool) : State :=
  { s with slots := slots, spriteCount := count, overflow := overflow }

/-! ### Reset and the mark REFUSED -/

/-- The reset values of R42 to R45 written to the state; OAM, `PAT`, REFUSED and the model's own fields
are kept, and `out` carries no result (R230, R44, R45). -/
def State.applyReset (s : State) : State :=
  { s with
    high32 := 0#32
    low32 := 0#32
    slots := Vector.replicate 8 Slot.zero
    spriteCount := 0#8
    overflow := false
    out := none }

/-- The mark a refused step leaves (R38, 43_control.md R191); the step has no result. -/
def State.markRefused (s : State) : State := { s with refused := true, out := none }

/-! ### The host's inputs -/

/-- The input of a step for which the host has given nothing: no action, no reset, no command. DESIGN CHOICE
(log entry 1), safe. -/
def idleInput : HostInput := ⟨[], false, none⟩

/-- The input of the next step. -/
def State.nextInput (s : State) : HostInput := s.inputs.headD idleInput

/-- One host action (R56, R57). -/
def State.hostAction (s : State) : HostAction → State
  | .writeOam a v => s.memWriteOam a v
  | .writePat a v => s.memWritePat a v

/-- The host's actions, in order. -/
def State.hostActions (s : State) (as : List HostAction) : State := as.foldl State.hostAction s

/-- The input of the step is taken. -/
def State.dropInput (s : State) : State := { s with inputs := s.inputs.tail }

/-- The state a step starts from: the host's actions since the step before are done (they fall between
two steps, R56, R57, R59), and its input is taken. DEDUCED (log entry 7), safe. -/
def State.beginStep (s : State) : State := s.dropInput.hostActions s.nextInput.actions

/-- The host issues `w` as the command of the very next step, before every other input. -/
def State.presentWord (s : State) (w : CmdWord) : State :=
  { s with inputs := ⟨[], false, some w⟩ :: s.inputs }

/-! ### The output ports (10_state.md R37), views of the state -/

/-- `spr_count`. -/
def State.sprCount (s : State) : Byte := s.spriteCount

/-- `spr_overflow`, bit 5 of the PPU status register (60_exceptions.md R211). -/
def State.sprOverflow (s : State) : BitVec 1 := BitVec.ofBool s.overflow

/-- `slot_pattern[k]`. -/
def State.slotPattern (s : State) (k : Fin 8) : U32 := s.slots[k].pattern

/-- `slot_posx[k]`. -/
def State.slotPosx (s : State) (k : Fin 8) : U32 := s.slots[k].posX.setWidth 32

/-- `slot_prio[k]`. -/
def State.slotPrio (s : State) (k : Fin 8) : BitVec 1 := BitVec.ofBool s.slots[k].prio

/-- `slot_oamidx[k]`. -/
def State.slotOamidx (s : State) (k : Fin 8) : Byte := s.slots[k].oamIdx.setWidth 8

/-- The valid bit of `out`. -/
def State.outValid (s : State) : Bool := s.out.isSome

end Sys2Proof.Machine
end

