-- ==== Sys2Proof/Machine/Control.lean ====
section
/-!
DEFINITION. The control family: NOP (43_control.md). Reserved words are no commands and are refused by the
step (Machine/Cycle.lean).
-/
namespace Sys2Proof.Machine

/-- NOP: no state is written; `out` carries no result (R190). -/
def execNop (s : State) : Host.Outcome State Fault Refusal := .next s.noResult

end Sys2Proof.Machine
end

