-- ==== Sys2Proof/Machine/Operands.lean ====
section
/-!
DEFINITION. What the operand fields L and T select (30_encoding.md R73), the layout of an OAM entry and
of its attribute byte (10_state.md R33, R34), and the pixel columns of a packed row and of the
shifter window (00_scope.md R15, 10_state.md R23).
-/
namespace Sys2Proof.Machine

/-- `height = (L == 1) ? 16 : 8` (R73). -/
def spriteHeight : SpriteSize → U32
  | .small => 8#32
  | .large => 16#32

/-- `base = (T == 1) ? 0x1000 : 0x0000` (R73). -/
def tableBase : TableSelect → U16
  | .lower => 0x0000#16
  | .upper => 0x1000#16

/-- The four bytes of an OAM entry, in their order (R33). -/
structure OamEntry where
  y : Byte
  tile : Byte
  attr : Byte
  x : Byte
deriving DecidableEq, Repr

/-- The address of byte `b` of OAM entry `i`: `4*i + b`, in 8 bits (20_memory.md R51). -/
def oamAddr (i : BitVec 6) (b : BitVec 2) : BitVec 8 := 4#8 * i.setWidth 8 + b.setWidth 8

/-- OAM entry `i` (R33). -/
def State.oamEntry (s : State) (i : BitVec 6) : OamEntry where
  y := s.memReadOam (oamAddr i 0)
  tile := s.memReadOam (oamAddr i 1)
  attr := s.memReadOam (oamAddr i 2)
  x := s.memReadOam (oamAddr i 3)

/-- VFLIP, attribute bit 7 (R34). -/
def attrVflip (attr : Byte) : Bool := attr.getLsbD 7

/-- HFLIP, attribute bit 6 (R34). -/
def attrHflip (attr : Byte) : Bool := attr.getLsbD 6

/-- PRIO, attribute bit 5 (R34). -/
def attrPrio (attr : Byte) : Bool := attr.getLsbD 5

/-- PAL, attribute bits 1:0 (R34). -/
def attrPal (attr : Byte) : BitVec 2 := attr.extractLsb' 0 2

/-- Column `c` of a packed row: bits (7-c)*4+3 : (7-c)*4 (00_scope.md R15). -/
def pixelColumn (row32 : U32) (c : Nat) : BitVec 4 := row32.extractLsb' ((7 - c) * 4) 4

/-- The shifter window `WIN = HIGH32 ++ LOW32` (R23). -/
def State.window (s : State) : BitVec 64 := s.high32 ++ s.low32

/-- Window column `j`: bits (15-j)*4+3 : (15-j)*4 of the window (R23). -/
def windowColumn (win : BitVec 64) (j : Nat) : BitVec 4 := win.extractLsb' ((15 - j) * 4) 4

end Sys2Proof.Machine
end

