-- ==== Sys2Proof/Machine/PatternFetch.lean ====
section
/-!
DEFINITION. The sprite pattern fetch and flip decode (42_pattern_fetch.md): the function `FetchRow` that
EVAL and FETCH share (R161), one definition for each of its parts (R162 to R167), and FETCH (R160).
-/
namespace Sys2Proof.Machine

/-- The row after the vertical flip, which mirrors it within the sprite's height (R162). -/
def flippedRow (size : SpriteSize) (attr : Byte) (row : U32) : U32 :=
  if attrVflip attr then spriteHeight size - 1#32 - row else row

/-- The table base, the tile and the row within the tile that a row of a sprite reads (R163). -/
structure TileRow where
  base : U16
  tile : Byte
  row : U32
deriving DecidableEq, Repr

/-- Small mode takes the table from T and the tile as it is. Large mode takes the table from bit 0 of the
tile, clears that bit, and takes the second half-tile for rows 8 and up; T has no effect (R163). -/
def tileRow (size : SpriteSize) (table : TableSelect) (tile : Byte) (r : U32) : TileRow :=
  match size with
  | .small => ⟨tableBase table, tile, r⟩
  | .large =>
    let base := tableBase (if tile.getLsbD 0 then .upper else .lower)
    let even := tile &&& 0xFE#8
    if 8#32 ≤ r then ⟨base, even + 1#8, r - 8#32⟩ else ⟨base, even, r⟩

/-- The address of the low-plane byte: `base + t*16 + r`, in 16 bits (R164). The spec takes the formula from
general knowledge: UNVERIFIED (log entry 13), unsafe. -/
def lowPlaneAddr (p : TileRow) : U16 := p.base + p.tile.setWidth 16 * 16#16 + p.row.setWidth 16

/-- The address of the high-plane byte, 8 above (R164). -/
def highPlaneAddr (p : TileRow) : U16 := lowPlaneAddr p + 8#16

/-- The bit of a plane byte that screen column `c` takes: bit 7-c, or bit c with horizontal flip (R165). The
unflipped direction is UNVERIFIED (log entry 13), unsafe. -/
def columnBit (attr : Byte) (c : Nat) : Nat := if attrHflip attr then c else 7 - c

/-- The pixel nibble of a column: PAL, then the high-plane bit, then the low-plane bit (R166). The order is
UNVERIFIED (log entry 13), unsafe. -/
def pixelNibble (attr lo hi : Byte) (c : Nat) : BitVec 4 :=
  attrPal attr ++ BitVec.ofBool (hi.getLsbD (columnBit attr c))
    ++ BitVec.ofBool (lo.getLsbD (columnBit attr c))

/-- A packed row from its 8 nibbles: the nibble of column `c` goes to bits (7-c)*4+3 : (7-c)*4 (R167). -/
def packRow (nib : Nat → BitVec 4) : U32 :=
  (List.range 8).foldl (fun result c => result ||| (nib c).setWidth 32 <<< ((7 - c) * 4)) 0#32

/-- The tile row that row `row` of the sprite in OAM entry `i` reads: the flip of R162, then the
selection of R163. -/
def State.spriteTileRow (s : State) (i : BitVec 6) (row : U32) (size : SpriteSize)
    (table : TableSelect) : TileRow :=
  tileRow size table (s.oamEntry i).tile (flippedRow size (s.oamEntry i).attr row)

/-- `FetchRow(i, row, L, T)` (R161), for row < height. -/
def State.fetchRow (s : State) (i : BitVec 6) (row : U32) (size : SpriteSize)
    (table : TableSelect) : U32 :=
  let p := s.spriteTileRow i row size table
  packRow (pixelNibble (s.oamEntry i).attr (s.memReadPat (lowPlaneAddr p))
    (s.memReadPat (highPlaneAddr p)))

/-- FETCH: the row of the sprite for row < height (R160), a drawn value for a larger row (R168). -/
def execFetch (size : SpriteSize) (table : TableSelect) (i : BitVec 6) (row : U32) (s : State) :
    Host.Outcome State Fault Refusal :=
  if row < spriteHeight size then .next (s.result (s.fetchRow i row size table))
  else .next s.drawRowResult

end Sys2Proof.Machine
end

