-- ==== Sys2Proof/Machine/Shifter.lean ====
section
/-!
DEFINITION. The background tile shifter's six commands (40_bg_shifter.md).
-/
namespace Sys2Proof.Machine

/-- SETLO: `LOW32 <- imm` (R102). -/
def execSetlo (imm : U32) (s : State) : Host.Outcome State Fault Refusal :=
  .next (s.setLow32 imm).noResult

/-- SETHI: `HIGH32 <- imm` (R103). -/
def execSethi (imm : U32) (s : State) : Host.Outcome State Fault Refusal :=
  .next (s.setHigh32 imm).noResult

/-- HIGH32 after SHL4: `HIGH32[27:0] ++ LOW32[31:28]` (R104). -/
def shiftedHigh (high low : U32) : U32 := high.extractLsb' 0 28 ++ low.extractLsb' 28 4

/-- LOW32 after SHL4: `LOW32[27:0] ++ 0b0000` (R104). -/
def shiftedLow (low : U32) : U32 := low.extractLsb' 0 28 ++ 0#4

/-- SHL4: both right-hand sides read the values at the start of the step (R104). -/
def execShl4 (s : State) : Host.Outcome State Fault Refusal :=
  .next ((s.setHigh32 (shiftedHigh s.high32 s.low32)).setLow32 (shiftedLow s.low32)).noResult

/-- GETPIX: the column `fx` of HIGH32 for fx <= 7 (R106), a drawn nibble for fx in 8 to 255 (R107). -/
def execGetpix (fx : Byte) (s : State) : Host.Outcome State Fault Refusal :=
  if fx.toNat ≤ 7 then .next (s.result ((pixelColumn s.high32 fx.toNat).setWidth 32))
  else .next s.drawNibbleResult

/-- GETHI: `out <- HIGH32` (R109). -/
def execGethi (s : State) : Host.Outcome State Fault Refusal := .next (s.result s.high32)

/-- GETLO: `out <- LOW32` (R110). -/
def execGetlo (s : State) : Host.Outcome State Fault Refusal := .next (s.result s.low32)

end Sys2Proof.Machine
end

