-- ==== Sys2Proof/Machine/Flags.lean ====
section
/-!
DEFINITION. The one flag of the core, OVERFLOW, with the count it goes with (41_sprite_eval.md R134) and
EVAL's result word (30_encoding.md R79). No command sets a carry, zero or sign flag (10_state.md R31).
-/
namespace Sys2Proof.Machine

/-- SPRITE_COUNT after a scan that found `n` entries in range (R134). -/
def spriteCountOf (n : Nat) : Byte := if 8 < n then 8#8 else BitVec.ofNat 8 n

/-- OVERFLOW after a scan that found `n` entries in range (R134). -/
def overflowOf (n : Nat) : Bool := decide (8 < n)

/-- `zext_32(SPRITE_COUNT') | (zext_32(OVERFLOW') << 8)` (R79). -/
def evalWord (count : Byte) (overflow : Bool) : U32 :=
  count.setWidth 32 ||| ((BitVec.ofBool overflow).setWidth 32 <<< 8)

end Sys2Proof.Machine
end

