-- ==== Sys2Proof/Machine/SpriteEval.lean ====
section
/-!
DEFINITION. Sprite evaluation (41_sprite_eval.md): EVAL scans the 64 OAM entries for one scanline.
-/
namespace Sys2Proof.Machine

/-- `row = (scanline - zext_32(Y)) mod 2^32` (R131). -/
def spriteRow (scanline : U32) (y : Byte) : U32 := scanline - y.setWidth 32

/-- The sprite of OAM entry `i` intersects the scanline: `row < h`, an unsigned comparison and the only
range check (R131). -/
def State.inRange (s : State) (size : SpriteSize) (scanline : U32) (i : BitVec 6) : Bool :=
  decide (spriteRow scanline (s.oamEntry i).y < spriteHeight size)

/-- The slot filled from OAM entry `i` (R133). -/
def State.slotFrom (s : State) (size : SpriteSize) (table : TableSelect) (scanline : U32)
    (i : BitVec 6) : Slot where
  pattern := s.fetchRow i (spriteRow scanline (s.oamEntry i).y) size table
  posX := (s.oamEntry i).x
  prio := attrPrio (s.oamEntry i).attr
  oamIdx := i

/-- What the scan carries from entry to entry (R130): the running count `n` of entries in range, which
exists only within the step (10_state.md R36), and the new slot set. The count is a Nat: DESIGN CHOICE (log
entry 14), safe, since it is at most 64. -/
structure Scan where
  count : Nat
  slots : Vector Slot 8
deriving DecidableEq, Repr

/-- The scan before its first entry (R130). -/
def scanStart : Scan := ⟨0, Vector.replicate 8 Slot.zero⟩

/-- One entry of the scan: an entry in range fills the next slot while fewer than 8 are filled, and is
counted in any case (R132). -/
def State.scanEntry (s : State) (size : SpriteSize) (table : TableSelect) (scanline : U32)
    (a : Scan) (i : BitVec 6) : Scan :=
  if s.inRange size scanline i then
    ⟨a.count + 1,
      if a.count < 8 then a.slots.setIfInBounds a.count (s.slotFrom size table scanline i)
      else a.slots⟩
  else a

/-- The 64 OAM entry numbers in ascending order (R132). -/
def oamEntries : List (BitVec 6) := (List.range 64).map (BitVec.ofNat 6)

/-- The whole scan (R130, R132). -/
def State.scan (s : State) (size : SpriteSize) (table : TableSelect) (scanline : U32) : Scan :=
  oamEntries.foldl (s.scanEntry size table scanline) scanStart

/-- EVAL: the new slot set, the count and the flag are written, and the result word is put on `out`
(R130, R134 to R136). -/
def execEval (size : SpriteSize) (table : TableSelect) (scanline : U32) (s : State) :
    Host.Outcome State Fault Refusal :=
  let a := s.scan size table scanline
  .next ((s.setEvaluation a.slots (spriteCountOf a.count) (overflowOf a.count)).result
    (evalWord (spriteCountOf a.count) (overflowOf a.count)))

end Sys2Proof.Machine
end

