-- ==== Sys2Proof/Machine/Dispatch.lean ====
section
/-!
DEFINITION. The dispatch: one arm per constructor of Instr, each a direct call of its meaning.
-/
namespace Sys2Proof.Machine

def exec (i : Instr) (s : State) : Host.Outcome State Fault Refusal :=
  match i with
  | .nop => Sys2Proof.Machine.execNop s
  | .setlo imm => Sys2Proof.Machine.execSetlo imm s
  | .sethi imm => Sys2Proof.Machine.execSethi imm s
  | .shl4 => Sys2Proof.Machine.execShl4 s
  | .getpix fx => Sys2Proof.Machine.execGetpix fx s
  | .gethi => Sys2Proof.Machine.execGethi s
  | .getlo => Sys2Proof.Machine.execGetlo s
  | .eval size table scanline => Sys2Proof.Machine.execEval size table scanline s
  | .fetch size table idx row => Sys2Proof.Machine.execFetch size table idx row s

end Sys2Proof.Machine
end

