-- ==== Sys2Proof/Machine/Cycle.lean ====
section
/-!
DEFINITION. One step of the core, with the host's input for it: the mark REFUSED, then reset, then the
command (10_state.md R38, 70_reset_and_hazards.md R232, 30_encoding.md R70, R82, 43_control.md R191).
-/
namespace Sys2Proof.Machine

/-- A step from a marked state has no meaning. The refusal carries the state it leaves: reset still
writes its values, and the mark stays (R38, R45). -/
def refusedStep (s : State) (reset : Bool) : Host.Outcome State Fault Refusal :=
  .refused (.refusedState (if reset then s.applyReset else s.noResult))

/-- The command of a step: no valid command has the effect of NOP (R70, R190), a command runs, and a
reserved word is refused and sets the mark (R191). -/
def commandStep (s : State) : Option CmdWord → Host.Outcome State Fault Refusal
  | none => exec .nop s
  | some w =>
    match decode w with
    | .command i => exec i s
    | .reserved r => .refused (.reservedCommand r s.markRefused)

/-- One step: the host's actions since the step before are done, its input is taken, and reset wins over
the command (R232). A word that comes with reset is discarded before it is decoded, a reserved one too:
DEDUCED (log entry 6), unsafe. Timing within a step is left out: DESIGN CHOICE (log entry 12), safe. -/
def cycle (s : State) : Host.Outcome State Fault Refusal :=
  if s.refused then refusedStep s.beginStep s.nextInput.reset
  else if s.nextInput.reset then .next s.beginStep.applyReset
  else commandStep s.beginStep s.nextInput.cmd

end Sys2Proof.Machine
end

