-- ==== Sys2Proof/Machine/Step.lean ====
section
/-!
DEFINITION. The step function of the machine, and the placing of one command word where the next step
takes it. The core fetches nothing from memory (10_state.md R20): the host presents the word.
-/
namespace Sys2Proof.Machine

/-- One step of the core under the host's next input. -/
def step (s : State) : Host.Outcome State Fault Refusal := cycle s

/-- The state `s` whose very next step has the word of `nbits` bits `w` as its command, with no reset and
no host action before it. Everything else is as in `s`. -/
def State.withFetchWord (s : State) (nbits w : Nat) : State := s.presentWord (tableWord nbits w)

end Sys2Proof.Machine
end

