-- ==== Sys2Proof/Safety.lean ====
section
/-!
DEFINITION. What the claims are about: a step that goes on, the invariant of the state (10_state.md R41),
a run of commands, and what the host owes the core (60_exceptions.md R213, 70_reset_and_hazards.md
R234 and R240 to R245). The core checks none of the host's duties.
-/
namespace Sys2Proof.Machine

/-- The next state of a step that goes on. -/
def nextState? : Host.Outcome State Fault Refusal → Option State
  | .next t => some t
  | .fault _ => none
  | .refused _ => none

/-! ### The invariant -/

/-- The invariants of R41, with the canonical form of the two memories (20_memory.md R50: 256 bytes of OAM,
65536 addresses of pattern memory). -/
structure State.Inv (s : State) : Prop where
  /-- R41.1: SPRITE_COUNT <= 8. -/
  count_le : s.spriteCount.toNat ≤ 8
  /-- R41.2: OVERFLOW = 1 implies SPRITE_COUNT = 8. -/
  overflow_full : s.overflow = true → s.spriteCount = 8#8
  /-- R41.3: every slot from SPRITE_COUNT on is all zero. -/
  unfilled_zero : ∀ k : Fin 8, s.spriteCount.toNat ≤ k.val → s.slots[k] = Slot.zero
  /-- R41.4: the OAM indices of the filled slots rise. -/
  oamIdx_rises : ∀ j k : Fin 8, j.val < k.val → k.val < s.spriteCount.toNat →
    s.slots[j].oamIdx < s.slots[k].oamIdx
  /-- OAM has its canonical form. -/
  oam_wf : Memory.wf 256 s.oam = true
  /-- Pattern memory has its canonical form. -/
  pat_wf : Memory.wf 65536 s.pat = true

/-! ### Runs of commands -/

/-- The commands of a list, one after another (10_state.md R20: program order is issue order), stopping at
the first fault or refusal. -/
def runCommands : List Instr → State → Host.Outcome State Fault Refusal
  | [], s => .next s
  | i :: is, s =>
    match exec i s with
    | .next t => runCommands is t
    | .fault r => .fault r
    | .refused r => .refused r

/-- `k` steps of the core under the host's inputs, stopping at the first fault or refusal: the host's
`core.run`, said of this machine's own types. -/
def runSteps : Nat → State → Host.Outcome State Fault Refusal
  | 0, s => .next s
  | k + 1, s =>
    match step s with
    | .next t => runSteps k t
    | .fault r => .fault r
    | .refused r => .refused r

/-- The commands that load a register of the shifter: SETLO and SETHI. -/
def isReload : Instr → Bool
  | .setlo _ => true
  | .sethi _ => true
  | .nop => false
  | .shl4 => false
  | .getpix _ => false
  | .gethi => false
  | .getlo => false
  | .eval _ _ _ => false
  | .fetch _ _ _ _ => false

/-- The command is EVAL. -/
def isEval : Instr → Bool
  | .eval _ _ _ => true
  | .nop => false
  | .setlo _ => false
  | .sethi _ => false
  | .shl4 => false
  | .getpix _ => false
  | .gethi => false
  | .getlo => false
  | .fetch _ _ _ _ => false

/-- The six commands of the background shifter (40_bg_shifter.md). -/
def isShifter : Instr → Bool
  | .setlo _ => true
  | .sethi _ => true
  | .shl4 => true
  | .getpix _ => true
  | .gethi => true
  | .getlo => true
  | .nop => false
  | .eval _ _ _ => false
  | .fetch _ _ _ _ => false

/-- How many SHL4 a list of commands holds. -/
def shiftCount (is : List Instr) : Nat := is.countP (fun i => decide (i = .shl4))

/-! ### What the host owes the core -/

/-- The host issues no reserved command word in the step (R245, R213). -/
def HostInput.legal (inp : HostInput) : Bool :=
  match inp.cmd with
  | none => true
  | some w => !reservedWord w

/-- The operand of a command for which the spec draws no value: fx <= 7 for GETPIX (R241), row < height for
FETCH (42_pattern_fetch.md R168). -/
def drawsNothing : Instr → Bool
  | .getpix fx => decide (fx.toNat ≤ 7)
  | .fetch size _ _ row => decide (row < spriteHeight size)
  | .nop => true
  | .setlo _ => true
  | .sethi _ => true
  | .shl4 => true
  | .gethi => true
  | .getlo => true
  | .eval _ _ _ => true

/-- The host has written all 256 bytes of OAM, as it must before it relies on an EVAL or a FETCH (R234). -/
def State.oamWritten (s : State) : Bool := (List.range 256).all fun a => (Memory.read s.oam a).isSome

/-- The shift cadence of R240, followed through a list of commands. `since` is how many SHL4 the host has
issued since the last reload, `none` before the first one; SETHI and SETLO with no SHL4 between
them are one reload: DEDUCED (log entry 16), safe. Between two reloads there are exactly 8 SHL4. -/
def cadenceKept : Option Nat → List Instr → Bool
  | _, [] => true
  | since, i :: is =>
    if isReload i then (since == none || since == some 0 || since == some 8) && cadenceKept (some 0) is
    else if i = .shl4 then cadenceKept (since.map (· + 1)) is
    else cadenceKept since is

end Sys2Proof.Machine
end

