-- ==== Sys2Proof/Certificates/Slice0/Obligations.lean ====
section
/-!
DEFINITION. The statements for the provers. Each docstring names the rules of the spec the statement
formalises, or the sections and log entries it rests on.
-/

open Sys2Proof Sys2Proof.Machine

/-! ### Encoding -/

/-- R86: the worked encodings, from the text of a line to its word and from the word to its command. -/
def Obligations.WorkedEncodingsAgree : Prop :=
  (assembleText "SETHI 0x12345678".toList = some [0x1234567800000002#64] ∧
    decode 0x1234567800000002#64 = .command (.sethi 0x12345678#32)) ∧
  (assembleText "SETLO 0x9ABCDEF0".toList = some [0x9ABCDEF000000001#64] ∧
    decode 0x9ABCDEF000000001#64 = .command (.setlo 0x9ABCDEF0#32)) ∧
  (assembleText "GETPIX 7".toList = some [0x0000000000000704#64] ∧
    decode 0x0000000000000704#64 = .command (.getpix 7#8)) ∧
  (assembleText "EVAL.8 T0, 12".toList = some [0x0000000C00000007#64] ∧
    decode 0x0000000C00000007#64 = .command (.eval .small .lower 12#32)) ∧
  (assembleText "EVAL.16 T1, 10".toList = some [0x0000000A00000037#64] ∧
    decode 0x0000000A00000037#64 = .command (.eval .large .upper 10#32)) ∧
  (assembleText "FETCH.16 T0, 3, 9".toList = some [0x0000000900030018#64] ∧
    decode 0x0000000900030018#64 = .command (.fetch .large .lower 3#6 9#32))

/-- R84: a number in a line of assembly is read back from its decimal digits, and from its hexadecimal
digits after `0x`, for every number. That hex digits may be small letters is the model's (log entry 15). -/
def Obligations.AssemblyNumbersRead : Prop :=
  ∀ n : Nat, readNumber (Nat.toDigits 10 n) = some n ∧
    readNumber ('0' :: 'x' :: Nat.toDigits 16 n) = some n

/-- R81, R82: a word that a row of the opcode map matches decodes to the row's command with its operands
from the word's fields (L = w[4], T = w[5], fx = w[15:8], i = w[21:16], imm = w[63:32]); a word that
no row matches decodes to Reserved(w); and no word matches two rows. -/
def Obligations.DecodeFollowsOpcodeMap : Prop :=
  (∀ w : CmdWord, w &&& 0xFFFFFFFFFFFFFFFF#64 = 0x0#64 → decode w = .command .nop) ∧
  (∀ w : CmdWord, w &&& 0x00000000FFFFFFFF#64 = 0x1#64 →
    decode w = .command (.setlo (w.extractLsb' 32 32))) ∧
  (∀ w : CmdWord, w &&& 0x00000000FFFFFFFF#64 = 0x2#64 →
    decode w = .command (.sethi (w.extractLsb' 32 32))) ∧
  (∀ w : CmdWord, w &&& 0xFFFFFFFFFFFFFFFF#64 = 0x3#64 → decode w = .command .shl4) ∧
  (∀ w : CmdWord, w &&& 0xFFFFFFFFFFFF00FF#64 = 0x4#64 →
    decode w = .command (.getpix (w.extractLsb' 8 8))) ∧
  (∀ w : CmdWord, w &&& 0xFFFFFFFFFFFFFFFF#64 = 0x5#64 → decode w = .command .gethi) ∧
  (∀ w : CmdWord, w &&& 0xFFFFFFFFFFFFFFFF#64 = 0x6#64 → decode w = .command .getlo) ∧
  (∀ w : CmdWord, w &&& 0x00000000FFFFFFCF#64 = 0x7#64 →
    decode w = .command (.eval (if w.getLsbD 4 then .large else .small)
      (if w.getLsbD 5 then .upper else .lower) (w.extractLsb' 32 32))) ∧
  (∀ w : CmdWord, w &&& 0x00000000FFC0FFCF#64 = 0x8#64 →
    decode w = .command (.fetch (if w.getLsbD 4 then .large else .small)
      (if w.getLsbD 5 then .upper else .lower) (w.extractLsb' 16 6) (w.extractLsb' 32 32))) ∧
  (∀ w : CmdWord, (∀ r ∈ opcodeRows, w &&& r.mask ≠ r.pattern) → decode w = .reserved w) ∧
  opcodeRows.Pairwise fun r q => ∀ w : CmdWord, w &&& r.mask = r.pattern → w &&& q.mask ≠ q.pattern

/-- R83 (with R77, R78): the words that decode to Reserved(w) are exactly those with OP in 0x9 to 0xF, a
RES0 or RES1 bit set, or a non-zero field that the opcode does not use. Which opcode uses which field
is the table of R80. -/
def Obligations.ReservedEncodingsExactly : Prop :=
  ∀ w : CmdWord, decode w = .reserved w ↔
    (9 ≤ (w.extractLsb' 0 4).toNat ∨ w.extractLsb' 6 2 ≠ 0#2 ∨ w.extractLsb' 22 10 ≠ 0#10 ∨
      (w.extractLsb' 4 2 ≠ 0#2 ∧ (w.extractLsb' 0 4).toNat ∉ [7, 8]) ∨
      (w.extractLsb' 8 8 ≠ 0#8 ∧ (w.extractLsb' 0 4).toNat ≠ 4) ∨
      (w.extractLsb' 16 6 ≠ 0#6 ∧ (w.extractLsb' 0 4).toNat ≠ 8) ∨
      (w.extractLsb' 32 32 ≠ 0#32 ∧ (w.extractLsb' 0 4).toNat ∉ [1, 2, 7, 8]))

/-- R72, R80 to R82: the decoder reads every command back from its encoding, at every value of every
operand. -/
def Obligations.DecodeOfEncode : Prop :=
  ∀ i : Instr, decode (encode i) = .command i

/-- R72, R77, R78: a word that decodes to a command is that command's only encoding. -/
def Obligations.EncodeOfDecode : Prop :=
  ∀ (w : CmdWord) (i : Instr), decode w = .command i → encode i = w

/-- R84: each form of a line of assembly gives the one word that decodes to its command with the operands
written, and a line with an operand out of its field's range gives no word. A large-mode line with no
`Tt` is assembled with T0 (log entry 15). -/
def Obligations.AssemblerForms : Prop :=
  (∃ w, assemble .nop = some [w] ∧ decode w = .command .nop) ∧
  (∃ w, assemble .shl4 = some [w] ∧ decode w = .command .shl4) ∧
  (∃ w, assemble .gethi = some [w] ∧ decode w = .command .gethi) ∧
  (∃ w, assemble .getlo = some [w] ∧ decode w = .command .getlo) ∧
  (∀ v : U32, ∃ w, assemble (.setlo v.toNat) = some [w] ∧ decode w = .command (.setlo v)) ∧
  (∀ v : U32, ∃ w, assemble (.sethi v.toNat) = some [w] ∧ decode w = .command (.sethi v)) ∧
  (∀ fx : Byte, ∃ w, assemble (.getpix fx.toNat) = some [w] ∧ decode w = .command (.getpix fx)) ∧
  (∀ (size : SpriteSize) (t : TableSelect) (v : U32), ∃ w,
    assemble (.eval size (some t) v.toNat) = some [w] ∧ decode w = .command (.eval size t v)) ∧
  (∀ (size : SpriteSize) (t : TableSelect) (i : BitVec 6) (v : U32), ∃ w,
    assemble (.fetch size (some t) i.toNat v.toNat) = some [w] ∧
      decode w = .command (.fetch size t i v)) ∧
  (∀ v, assemble (.eval .large none v) = assemble (.eval .large (some .lower) v)) ∧
  (∀ i v, assemble (.fetch .large none i v) = assemble (.fetch .large (some .lower) i v)) ∧
  (∀ v, 0xFFFFFFFF < v → assemble (.setlo v) = none ∧ assemble (.sethi v) = none) ∧
  (∀ fx, 255 < fx → assemble (.getpix fx) = none) ∧
  (∀ size t v, 0xFFFFFFFF < v → assemble (.eval size t v) = none) ∧
  (∀ size t i v, 63 < i ∨ 0xFFFFFFFF < v → assemble (.fetch size t i v) = none)

/-- R85: the pseudo-commands stand for the real commands of the table, at every operand, and ADVANCE n is
accepted for 1 <= n <= 8 only. -/
def Obligations.PseudoCommandsExpand : Prop :=
  (∀ hi lo : Nat, assemble (.loadbg hi lo) =
    (assemble (.sethi hi)).bind fun a => (assemble (.setlo lo)).map fun b => a ++ b) ∧
  (∀ n : Nat, 1 ≤ n → n ≤ 8 →
    assemble (.advance n) = (assemble .shl4).map fun a => (List.replicate n a).flatten) ∧
  (∀ n : Nat, n = 0 ∨ 8 < n → assemble (.advance n) = none) ∧
  assemble .idle = assemble .nop

/-! ### The background shifter -/

/-- R102: SETLO. Its encoding; it loads LOW32 and has no result, and nothing else changes; of two in a row
the second value is left. -/
def Obligations.SetloLoadsLow : Prop :=
  (∀ w : CmdWord, w &&& 0x00000000FFFFFFFF#64 = 0x1#64 →
    decode w = .command (.setlo (w.extractLsb' 32 32))) ∧
  (∀ (v : U32) (s : State), exec (.setlo v) s = .next { s with low32 := v, out := none }) ∧
  (∀ (a b : U32) (s : State), runCommands [.setlo a, .setlo b] s = runCommands [.setlo b] s)

/-- R103: SETHI. Its encoding; it loads HIGH32 and has no result, and nothing else changes. -/
def Obligations.SethiLoadsHigh : Prop :=
  (∀ w : CmdWord, w &&& 0x00000000FFFFFFFF#64 = 0x2#64 →
    decode w = .command (.sethi (w.extractLsb' 32 32))) ∧
  ∀ (v : U32) (s : State), exec (.sethi v) s = .next { s with high32 := v, out := none }

/-- R104: SHL4. Its encoding; both registers by the two forms the rule gives, as a shift of the window, and
nothing else changes; HIGH32's top nibble is discarded and LOW32's bottom nibble becomes 0. -/
def Obligations.Shl4ShiftsWindow : Prop :=
  (∀ w : CmdWord, w &&& 0xFFFFFFFFFFFFFFFF#64 = 0x3#64 → decode w = .command .shl4) ∧
  ∀ s : State, ∃ t : State, exec .shl4 s = .next t ∧
    t = { s with high32 := (s.high32 <<< 4) ||| (s.low32 >>> 28), low32 := s.low32 <<< 4, out := none } ∧
    t.high32 = s.high32.extractLsb' 0 28 ++ s.low32.extractLsb' 28 4 ∧
    t.low32 = s.low32.extractLsb' 0 28 ++ 0b0000#4 ∧
    t.high32 ++ t.low32 = (s.high32 ++ s.low32) <<< 4

/-- R106: GETPIX with fx <= 7. Its encoding; the result is `(HIGH32 >> ((7 - fx) * 4)) & 0xF`, column fx of
HIGH32, and nothing else changes. -/
def Obligations.GetpixReadsColumn : Prop :=
  (∀ w : CmdWord, w &&& 0xFFFFFFFFFFFF00FF#64 = 0x4#64 →
    decode w = .command (.getpix (w.extractLsb' 8 8))) ∧
  ∀ (fx : Byte) (s : State), fx.toNat ≤ 7 → ∃ p : U32,
    exec (.getpix fx) s = .next { s with out := some p } ∧
    p = (s.high32 >>> ((7 - fx.toNat) * 4)) &&& 0xF#32 ∧
    p = (pixelColumn s.high32 fx.toNat).setWidth 32

/-- R107: GETPIX with fx in 8 to 255 completes with one 4-bit value, zero-extended, and writes no state of
the spec (`draws` is the model's own count of draws, log entry 2). -/
def Obligations.GetpixOutOfRangeDraws : Prop :=
  ∀ (fx : Byte) (s : State), 8 ≤ fx.toNat → ∃ d : BitVec 4,
    ∃ t : State, exec (.getpix fx) s = .next t ∧ t.out = some (d.setWidth 32) ∧
      t = { s with out := t.out, draws := t.draws }

/-- R109: GETHI. Its encoding; the result is HIGH32, and nothing else changes. -/
def Obligations.GethiReadsHigh : Prop :=
  (∀ w : CmdWord, w &&& 0xFFFFFFFFFFFFFFFF#64 = 0x5#64 → decode w = .command .gethi) ∧
  ∀ s : State, exec .gethi s = .next { s with out := some s.high32 }

/-- R110: GETLO. Its encoding; the result is LOW32, and nothing else changes. -/
def Obligations.GetloReadsLow : Prop :=
  (∀ w : CmdWord, w &&& 0xFFFFFFFFFFFFFFFF#64 = 0x6#64 → decode w = .command .getlo) ∧
  ∀ s : State, exec .getlo s = .next { s with out := some s.low32 }

/-- R105: k consecutive SHL4, for k <= 8, give the registers of the rule; after exactly 8, HIGH32 is the
old LOW32 and LOW32 is 0; after 16 or more both are 0. -/
def Obligations.ConsecutiveShifts : Prop :=
  (∀ (k : Nat) (s : State), k ≤ 8 → ∃ t : State, runCommands (List.replicate k .shl4) s = .next t ∧
    t.high32 = (s.high32 <<< (4 * k)) ||| (s.low32 >>> (32 - 4 * k)) ∧
    t.low32 = s.low32 <<< (4 * k)) ∧
  (∀ s : State, ∃ t : State, runCommands (List.replicate 8 .shl4) s = .next t ∧
    t.high32 = s.low32 ∧ t.low32 = 0#32) ∧
  (∀ (k : Nat) (s : State), 16 ≤ k → ∃ t : State, runCommands (List.replicate k .shl4) s = .next t ∧
    t.high32 = 0#32 ∧ t.low32 = 0#32)

/-- R108: GETPIX 0 and GETPIX 7 give the top and the bottom nibble of HIGH32; after k SHL4, for k <= 8,
GETPIX fx gives column k+fx of the window before the shifts, for every fx in 0 to 7. -/
def Obligations.PixelAfterShifts : Prop :=
  (∀ s : State, ∃ t : State, exec (.getpix 0#8) s = .next t ∧
    t.out = some ((s.high32 >>> 28) &&& 0xF#32)) ∧
  (∀ s : State, ∃ t : State, exec (.getpix 7#8) s = .next t ∧ t.out = some (s.high32 &&& 0xF#32)) ∧
  (∀ (k : Nat) (fx : Byte) (s : State), k ≤ 8 → fx.toNat ≤ 7 → ∃ t : State,
    runCommands (List.replicate k .shl4 ++ [.getpix fx]) s = .next t ∧
    t.out = some ((windowColumn (s.high32 ++ s.low32) (k + fx.toNat)).setWidth 32))

/-- R23, R40, R104: over any list of commands with no SETLO and no SETHI, whatever else stands between its
SHL4, the window moves left by one pixel for each SHL4 and for nothing else. -/
def Obligations.WindowMovesOncePerShift : Prop :=
  ∀ (is : List Instr) (s : State), (∀ i ∈ is, isReload i = false) →
    ∃ t : State, runCommands is s = .next t ∧
      t.high32 ++ t.low32 = (s.high32 ++ s.low32) <<< (4 * shiftCount is)

/-- R240, R105: where a host keeps the shift cadence and reloads after at least one shift, the reload falls
on a tile boundary: the loaded LOW32 is in HIGH32, and LOW32 is 0. The first reload is a SETHI and a SETLO
in either order; that the two are one reload is the model's inference (log entry 16, DEDUCED). `mid`
holds the commands between the two reloads, of any kind. -/
def Obligations.KeptCadenceReloadsOnTileBoundary : Prop :=
  ∀ (h l : U32) (load mid : List Instr) (r : Instr) (s : State),
    load = [.sethi h, .setlo l] ∨ load = [.setlo l, .sethi h] →
    (∀ i ∈ mid, isReload i = false) → isReload r = true → .shl4 ∈ mid →
    cadenceKept none (load ++ mid ++ [r]) = true →
    ∃ t : State, runCommands (load ++ mid) s = .next t ∧ t.high32 = l ∧ t.low32 = 0#32

/-- R100: every shifter command runs to completion in one step; it writes only HIGH32, LOW32 and `out` (and
the model's count of draws); and what it writes depends only on HIGH32 and LOW32, so on no OAM byte,
no pattern byte and no flag. The value of a draw is left out of the comparison (log entry 2). -/
def Obligations.ShifterReadsAndWritesItsRegisters : Prop :=
  ∀ (i : Instr) (s : State), isShifter i = true → ∃ t : State, exec i s = .next t ∧
    t = { s with high32 := t.high32, low32 := t.low32, out := t.out, draws := t.draws } ∧
    ∀ s' : State, s'.high32 = s.high32 → s'.low32 = s.low32 → ∃ t' : State, exec i s' = .next t' ∧
      t'.high32 = t.high32 ∧ t'.low32 = t.low32 ∧ (drawsNothing i = true → t'.out = t.out)

/-! ### Sprite evaluation -/

/-- R131: the row is the unsigned difference modulo 2^32, and `row < h` is the only range check: it holds
exactly when Y <= scanline < Y + h, for every scanline and every Y. -/
def Obligations.RangeCheckIsUnsigned : Prop :=
  ∀ (s : State) (size : SpriteSize) (scanline : U32) (i : BitVec 6) (h y : Nat),
    h = (if size = .large then 16 else 8) → y = (s.memReadOam (4#8 * i.setWidth 8)).toNat →
    (spriteRow scanline (s.memReadOam (4#8 * i.setWidth 8))).toNat = (scanline.toNat + 2 ^ 32 - y) % 2 ^ 32 ∧
    (s.inRange size scanline i = true ↔ (scanline.toNat + 2 ^ 32 - y) % 2 ^ 32 < h) ∧
    (s.inRange size scanline i = true ↔ y ≤ scanline.toNat ∧ scanline.toNat < y + h)

/-- R130, R132 to R136: EVAL. Its encoding; with E the entries in range (R131) in ascending order, slot k
holds the sprite of the k-th of E for k < min(8, |E|) and is all zero from there on; the count is
min(|E|, 8); the flag says |E| > 8; the result word holds both; nothing else changes, and no old slot,
count or flag matters. PATTERN is FetchRow, whose value FetchDecodesRow states (log entry 13, UNVERIFIED). -/
def Obligations.EvalKeepsFirstEight : Prop :=
  (∀ w : CmdWord, w &&& 0x00000000FFFFFFCF#64 = 0x7#64 →
    decode w = .command (.eval (if w.getLsbD 4 then .large else .small)
      (if w.getLsbD 5 then .upper else .lower) (w.extractLsb' 32 32))) ∧
  ∀ (size : SpriteSize) (table : TableSelect) (scanline : U32) (s : State) (h : Nat) (e : List Nat),
    h = (if size = .large then 16 else 8) →
    e = (List.range 64).filter (fun i => decide
      ((scanline.toNat + 2 ^ 32 - (s.memReadOam (BitVec.ofNat 8 (4 * i))).toNat) % 2 ^ 32 < h)) →
    exec (.eval size table scanline) s = .next { s with
      slots := Vector.ofFn fun k : Fin 8 =>
        (e[k.val]?).elim ⟨0#32, 0#8, false, 0#6⟩ fun i =>
          { pattern := s.fetchRow (BitVec.ofNat 6 i)
              (scanline - (s.memReadOam (BitVec.ofNat 8 (4 * i))).setWidth 32) size table
            posX := s.memReadOam (BitVec.ofNat 8 (4 * i + 3))
            prio := (s.memReadOam (BitVec.ofNat 8 (4 * i + 2))).getLsbD 5
            oamIdx := BitVec.ofNat 6 i }
      spriteCount := BitVec.ofNat 8 (min e.length 8)
      overflow := decide (8 < e.length)
      out := some (BitVec.ofNat 32 (min e.length 8 + if 8 < e.length then 256 else 0)) }

/-- R137: the count is min(N, 8), the flag is set exactly when N > 8, and the OAM indices of the filled
slots are the smallest in-range indices in increasing order, with N the number of entries i with
`(scanline - OAM[4i]) mod 2^32 < h`; and none of these, nor the result word, depends on any tile,
attribute or X byte: two states with the same Y bytes agree on all of them. -/
def Obligations.EvalLaws : Prop :=
  ∀ (size : SpriteSize) (table table' : TableSelect) (scanline : U32) (s s' : State) (h : Nat)
    (e : List Nat), h = (if size = .large then 16 else 8) →
    e = (List.range 64).filter (fun i => decide
      ((scanline.toNat + 2 ^ 32 - (s.memReadOam (BitVec.ofNat 8 (4 * i))).toNat) % 2 ^ 32 < h)) →
    (∀ i < 64, s'.memReadOam (BitVec.ofNat 8 (4 * i)) = s.memReadOam (BitVec.ofNat 8 (4 * i))) →
    ∃ t t' : State, exec (.eval size table scanline) s = .next t ∧
      exec (.eval size table' scanline) s' = .next t' ∧
      t.spriteCount.toNat = min e.length 8 ∧
      (t.overflow = true ↔ 8 < e.length) ∧
      (∀ k : Fin 8, k.val < t.spriteCount.toNat → some (t.slots[k].oamIdx.toNat) = e[k.val]?) ∧
      t'.spriteCount = t.spriteCount ∧ t'.overflow = t.overflow ∧ t'.out = t.out ∧
      (∀ k : Fin 8, t'.slots[k].oamIdx = t.slots[k].oamIdx)

/-- R136: EVAL's result depends on OAM and on pattern memory alone. Two states with the same bytes there
get the same slots, count, flag and result word, whatever their old slots, counts, flags and shifter
registers; and EVAL writes none of HIGH32, LOW32 and OAM. -/
def Obligations.EvalIgnoresOldEvaluation : Prop :=
  ∀ (size : SpriteSize) (table : TableSelect) (scanline : U32) (s s' : State),
    (∀ a, s'.memReadOam a = s.memReadOam a) → (∀ a, s'.memReadPat a = s.memReadPat a) →
    ∃ t t' : State, exec (.eval size table scanline) s = .next t ∧
      exec (.eval size table scanline) s' = .next t' ∧
      t'.slots = t.slots ∧ t'.spriteCount = t.spriteCount ∧ t'.overflow = t.overflow ∧
      t'.out = t.out ∧ t.high32 = s.high32 ∧ t.low32 = s.low32 ∧ t.oam = s.oam

/-- R138: EVAL completes for every scanline. From 271 up no entry is in range: count 0, no overflow, every
slot all zero. From 240 to 270 entries with a large Y can be in range: an entry with Y = 0xF0 is in
range at scanline 245, on row 5. -/
def Obligations.EvalPastVisibleLines : Prop :=
  (∀ (size : SpriteSize) (table : TableSelect) (scanline : U32) (s : State), ∃ t : State,
    exec (.eval size table scanline) s = .next t ∧
    (271 ≤ scanline.toNat → t.spriteCount = 0#8 ∧ t.overflow = false ∧ t.out = some 0#32 ∧
      ∀ k : Fin 8, t.slots[k] = Slot.zero)) ∧
  (∀ (size : SpriteSize) (s : State) (i : BitVec 6), (s.oamEntry i).y = 0xF0#8 →
    s.inRange size 245#32 i = true ∧ spriteRow 245#32 (s.oamEntry i).y = 5#32)

/-! ### Pattern fetch -/

/-- R160 to R167: FETCH. Its encoding; for row < height the result's column c is
PAL ++ hi[b] ++ lo[b], with the row flipped as R162 says, the table and tile as R163 says, the plane bytes
at base + t*16 + r and 8 above (R164), and b = c or 7-c (R165); nothing else changes. The addresses are
computed here in unbounded arithmetic, so nothing wraps. For row >= height the result is some 32-bit value
and no state of the spec is written (`draws` is the model's own count of draws, log entry 2). The spec
takes R164 to R166 from general knowledge (log entry 13, UNVERIFIED). -/
def Obligations.FetchDecodesRow : Prop :=
  (∀ w : CmdWord, w &&& 0x00000000FFC0FFCF#64 = 0x8#64 →
    decode w = .command (.fetch (if w.getLsbD 4 then .large else .small)
      (if w.getLsbD 5 then .upper else .lower) (w.extractLsb' 16 6) (w.extractLsb' 32 32))) ∧
  (∀ (size : SpriteSize) (table : TableSelect) (i : BitVec 6) (row : U32) (s : State)
    (h r r' base tile : Nat) (attr lo hi : Byte),
    h = (if size = .large then 16 else 8) → row.toNat < h →
    attr = s.memReadOam (BitVec.ofNat 8 (4 * i.toNat + 2)) →
    tile = (s.memReadOam (BitVec.ofNat 8 (4 * i.toNat + 1))).toNat →
    r = (if attr.getLsbD 7 then h - 1 - row.toNat else row.toNat) →
    base = (if size = .large then (tile % 2) * 0x1000 else if table = .upper then 0x1000 else 0) →
    r' = (if size = .large then (tile - tile % 2) * 16 + (r / 8) * 16 + r % 8 else tile * 16 + r) →
    lo = s.memReadPat (BitVec.ofNat 16 (base + r')) →
    hi = s.memReadPat (BitVec.ofNat 16 (base + r' + 8)) →
    ∃ p : U32, exec (.fetch size table i row) s = .next { s with out := some p } ∧
      p = s.fetchRow i row size table ∧
      ∀ c < 8, p.extractLsb' ((7 - c) * 4) 4 = attr.extractLsb' 0 2 ++
        BitVec.ofBool (hi.getLsbD (if attr.getLsbD 6 then c else 7 - c)) ++
        BitVec.ofBool (lo.getLsbD (if attr.getLsbD 6 then c else 7 - c))) ∧
  ∀ (size : SpriteSize) (table : TableSelect) (i : BitVec 6) (row : U32) (s : State),
    (if size = .large then 16 else 8) ≤ row.toNat → ∃ (d : U32) (t : State),
      exec (.fetch size table i row) s = .next t ∧ t.out = some d ∧
        t = { s with out := t.out, draws := t.draws }

/-- R168: FETCH with row >= height completes with one 32-bit value and writes no state of the spec (`draws`
is the model's own count of draws, log entry 2). -/
def Obligations.FetchOutOfRangeDraws : Prop :=
  ∀ (size : SpriteSize) (table : TableSelect) (i : BitVec 6) (row : U32) (s : State),
    (if size = .large then 16 else 8) ≤ row.toNat → ∃ d : U32,
      ∃ t : State, exec (.fetch size table i row) s = .next t ∧ t.out = some d ∧
        t = { s with out := t.out, draws := t.draws }

/-- R58, R164: for row < height, every pattern address the core forms lies in 0x0000 to 0x1FFF, and the
high-plane byte is 8 above the low-plane byte with no wrap. The formula is log entry 13's (UNVERIFIED). -/
def Obligations.PatternAddressesInTables : Prop :=
  ∀ (s : State) (i : BitVec 6) (row : U32) (size : SpriteSize) (table : TableSelect),
    row < spriteHeight size →
    (lowPlaneAddr (s.spriteTileRow i row size table)).toNat ≤ 0x1FF7 ∧
    (highPlaneAddr (s.spriteTileRow i row size table)).toNat =
      (lowPlaneAddr (s.spriteTileRow i row size table)).toNat + 8

/-- R170: with attribute bit 6 set instead of clear, and the same other inputs, column c of the row is
column 7-c; with bit 7 set instead of clear, the row is the unflipped row h-1-row. -/
def Obligations.FlipsMirror : Prop :=
  ∀ (s s' : State) (i : BitVec 6) (row : U32) (size : SpriteSize) (table : TableSelect),
    row < spriteHeight size → (∀ a, s'.memReadPat a = s.memReadPat a) →
    (s'.oamEntry i).tile = (s.oamEntry i).tile →
    ((s.oamEntry i).attr.getLsbD 6 = false → (s'.oamEntry i).attr = (s.oamEntry i).attr ||| 0x40#8 →
      ∀ c < 8, pixelColumn (s'.fetchRow i row size table) c =
        pixelColumn (s.fetchRow i row size table) (7 - c)) ∧
    ((s.oamEntry i).attr.getLsbD 7 = false → (s'.oamEntry i).attr = (s.oamEntry i).attr ||| 0x80#8 →
      s'.fetchRow i row size table = s.fetchRow i (spriteHeight size - 1#32 - row) size table)

/-- R169: FetchRow is defined for every pattern byte. Where every pattern byte is 0, every nibble is PAL << 2
(0x00000000, 0x44444444, 0x88888888 or 0xCCCCCCCC); where every one is 0xFF, every nibble is
(PAL << 2) | 3. The nibble's layout is log entry 13's (UNVERIFIED). -/
def Obligations.UniformPatternMemory : Prop :=
  ∀ (s : State) (i : BitVec 6) (row : U32) (size : SpriteSize) (table : TableSelect),
    row < spriteHeight size →
    ((∀ a, s.memReadPat a = 0x00#8) → ∃ t : State,
      exec (.fetch size table i row) s = .next t ∧
      t.out = some (0x44444444#32 * ((s.oamEntry i).attr &&& 3#8).setWidth 32) ∧
      ∀ c < 8, pixelColumn (s.fetchRow i row size table) c = (s.oamEntry i).attr.setWidth 4 <<< 2) ∧
    ((∀ a, s.memReadPat a = 0xFF#8) → ∃ t : State,
      exec (.fetch size table i row) s = .next t ∧
      t.out = some (0x44444444#32 * ((s.oamEntry i).attr &&& 3#8).setWidth 32 ||| 0x33333333#32) ∧
      ∀ c < 8, pixelColumn (s.fetchRow i row size table) c =
        ((s.oamEntry i).attr.setWidth 4 <<< 2) ||| 3#4)

/-- R171: FetchRow reads only the tile byte and attribute bits 7, 6, 1 and 0 of its entry (and pattern
memory): no Y byte, no X byte, no other attribute bit, no other entry. -/
def Obligations.FetchReadsTileAndFourAttributeBits : Prop :=
  ∀ (s s' : State) (i : BitVec 6) (row : U32) (size : SpriteSize) (table : TableSelect),
    (∀ a, s'.memReadPat a = s.memReadPat a) →
    s'.memReadOam (BitVec.ofNat 8 (4 * i.toNat + 1)) = s.memReadOam (BitVec.ofNat 8 (4 * i.toNat + 1)) →
    s'.memReadOam (BitVec.ofNat 8 (4 * i.toNat + 2)) &&& 0b11000011#8 =
      s.memReadOam (BitVec.ofNat 8 (4 * i.toNat + 2)) &&& 0b11000011#8 →
    s'.fetchRow i row size table = s.fetchRow i row size table

/-! ### The whole machine -/

/-- R247, R201: every command, in every state and at every operand, runs to completion in one step. It
neither sets nor clears the mark REFUSED and takes no input of a later step. -/
def Obligations.EveryCommandCompletes : Prop :=
  ∀ (i : Instr) (s : State), ∃ t : State, exec i s = .next t ∧ t.refused = s.refused ∧
    t.inputs = s.inputs

/-- R40: which command writes which state. Only SETHI and SHL4 write HIGH32, only SETLO and SHL4 write
LOW32, only EVAL writes a slot, the count or the flag, and no command writes a byte of OAM or of
pattern memory. -/
def Obligations.WritesFollowAccessTable : Prop :=
  ∀ (i : Instr) (s t : State), exec i s = .next t →
    ((∀ v, i ≠ .sethi v) → i ≠ .shl4 → t.high32 = s.high32) ∧
    ((∀ v, i ≠ .setlo v) → i ≠ .shl4 → t.low32 = s.low32) ∧
    (isEval i = false → t.slots = s.slots ∧ t.spriteCount = s.spriteCount ∧ t.overflow = s.overflow) ∧
    (∀ a, t.memReadOam a = s.memReadOam a) ∧ (∀ a, t.memReadPat a = s.memReadPat a)

/-- R80, R12, R246: which command has a result. After NOP, SETLO, SETHI and SHL4 the port `out` holds none,
so no result of an earlier step is left on it; after each other command it holds one. -/
def Obligations.ResultPortFollowsOpcodeMap : Prop :=
  ∀ (i : Instr) (s t : State), exec i s = .next t →
    (t.out = none ↔ i = .nop ∨ (∃ v, i = .setlo v) ∨ (∃ v, i = .sethi v) ∨ i = .shl4)

/-- R14, R201, R241: the only commands that draw a value are GETPIX with fx >= 8 and FETCH with
row >= height, and each draws one. The count of draws is the model's own (log entry 2, DESIGN CHOICE). -/
def Obligations.OnlyOutOfRangeOperandsDraw : Prop :=
  ∀ (i : Instr) (s t : State), exec i s = .next t →
    t.draws = s.draws + (if drawsNothing i then 0 else 1)

/-- R59, R82, R213: a step runs the command its word decodes to. Where the state is not marked and the host
asserts no reset, the step is the command on the state the step starts from: the host's actions since
the step before are done, and the input is taken. That state differs from `s` in OAM, in pattern
memory and in the inputs to come only. That the inputs are a list in the state and that a step does the
host's actions first are the model's (log entries 1, DESIGN CHOICE, and 7, DEDUCED). -/
def Obligations.StepRunsDecodedCommand : Prop :=
  ∀ (s : State) (w : CmdWord) (i : Instr), s.refused = false → s.nextInput.reset = false →
    s.nextInput.cmd = some w → decode w = .command i →
    step s = exec i s.beginStep ∧
    s.beginStep = { s with oam := s.beginStep.oam, pat := s.beginStep.pat, inputs := s.inputs.tail } ∧
    (s.nextInput.actions = [] → s.beginStep = { s with inputs := s.inputs.tail })

/-- R190: NOP's encoding; it writes no state and has no result; a step in which the host presents no valid
command has exactly the effect of NOP. -/
def Obligations.NoCommandIsNop : Prop :=
  (∀ w : CmdWord, w &&& 0xFFFFFFFFFFFFFFFF#64 = 0x0#64 → decode w = .command .nop) ∧
  (∀ s : State, exec .nop s = .next { s with out := none }) ∧
  (∀ s : State, s.refused = false → s.nextInput.reset = false → s.nextInput.cmd = none →
    step s = exec .nop s.beginStep)

/-- R230, R232: in a step with reset asserted, whatever command comes with it and when none comes, the
reset values are written, the command is discarded, `out` carries no result, and OAM is as the host left
it. A reserved word in such a step is the next statement's. -/
def Obligations.ResetWinsOverCommand : Prop :=
  ∀ s : State, s.refused = false → s.nextInput.reset = true →
    (∀ w, s.nextInput.cmd = some w → reservedWord w = false) →
    step s = .next { s.beginStep with
      high32 := 0x00000000#32, low32 := 0x00000000#32
      slots := Vector.ofFn fun _ => ⟨0x00000000#32, 0x00#8, false, 0#6⟩
      spriteCount := 0#8, overflow := false, out := none } ∧
    s.beginStep = { s with oam := s.beginStep.oam, pat := s.beginStep.pat, inputs := s.inputs.tail } ∧
    (s.nextInput.actions = [] → s.beginStep.oam = s.oam)

/-- R232 read for a reserved word, the model's inference (log entry 6): a word that comes with reset is
discarded before it is decoded, so a reserved one neither stops the run nor sets the mark. -/
def Obligations.ResetDiscardsReservedWord : Prop :=
  ∀ (s : State) (w : CmdWord), s.refused = false → s.nextInput.reset = true →
    s.nextInput.cmd = some w → reservedWord w = true →
    ∃ t : State, step s = .next t ∧ t.refused = false ∧ t.high32 = 0#32 ∧ t.low32 = 0#32 ∧
      (∀ k : Fin 8, t.slots[k] = Slot.zero) ∧ t.spriteCount = 0#8 ∧ t.overflow = false ∧ t.out = none

/-- R42, R43: HIGH32, LOW32, every slot field, SPRITE_COUNT and OVERFLOW after reset: in the state at
power-on, and after a step with reset asserted from any unmarked state, with no command or any word that is
not reserved (a reserved one is ResetDiscardsReservedWord's). -/
def Obligations.ResetStateValues : Prop :=
  (State.reset.high32 = 0x00000000#32 ∧ State.reset.low32 = 0x00000000#32 ∧
    (∀ k : Fin 8, State.reset.slots[k].pattern = 0x00000000#32 ∧ State.reset.slots[k].posX = 0x00#8 ∧
      State.reset.slots[k].prio = false ∧ State.reset.slots[k].oamIdx = 0#6) ∧
    State.reset.spriteCount = 0#8 ∧ State.reset.overflow = false) ∧
  ∀ s : State, s.refused = false → s.nextInput.reset = true →
    (∀ w, s.nextInput.cmd = some w → reservedWord w = false) → ∃ t : State, step s = .next t ∧
    t.high32 = 0x00000000#32 ∧ t.low32 = 0x00000000#32 ∧
    (∀ k : Fin 8, t.slots[k].pattern = 0x00000000#32 ∧ t.slots[k].posX = 0x00#8 ∧
      t.slots[k].prio = false ∧ t.slots[k].oamIdx = 0#6) ∧
    t.spriteCount = 0#8 ∧ t.overflow = false

/-- R191, with the model's form of a refused step (log entry 5, DESIGN CHOICE: the refusal carries the state,
and a step from a marked state is refused too): a step whose command word is reserved (R82 decodes it so, or, the same words, its OP is in 0x9
to 0xF, a reserved bit is set or a field its opcode does not use is not zero) is refused with the word,
the state it leaves has the mark, and no later step clears the mark. -/
def Obligations.ReservedWordIsRefused : Prop :=
  (∀ w : CmdWord, decode w = .reserved w ↔ reservedWord w = true) ∧
  (∀ (s : State) (w : CmdWord), s.refused = false → s.nextInput.reset = false →
    s.nextInput.cmd = some w → decode w = .reserved w →
    ∃ after : State, step s = .refused (.reservedCommand w after) ∧ after.refused = true) ∧
  (∀ s : State, s.refused = true →
    ∃ after : State, step s = .refused (.refusedState after) ∧ after.refused = true)

/-- R38, R45, with the model's form of a refused step (log entry 5): the mark REFUSED is set by every
refused step and is never cleared, not even by reset. A refused reserved word leaves the state otherwise as
the step found it, with no result. No step from a marked state goes on; the state its refusal carries is
marked, and has the reset values if reset is asserted. A step that goes on was not marked and is not. -/
def Obligations.RefusedMarkIsNeverCleared : Prop :=
  (∀ (s : State) (w : CmdWord), s.refused = false → s.nextInput.reset = false →
    s.nextInput.cmd = some w → reservedWord w = true →
    step s = .refused (.reservedCommand w { s.beginStep with refused := true, out := none })) ∧
  (∀ s : State, s.refused = true → ∃ after : State, step s = .refused (.refusedState after) ∧
    after.refused = true ∧
    (s.nextInput.reset = true → after.high32 = 0#32 ∧ after.low32 = 0#32 ∧
      (∀ k : Fin 8, after.slots[k] = Slot.zero) ∧ after.spriteCount = 0#8 ∧ after.overflow = false)) ∧
  (∀ (s : State) (r : Refusal), step s = .refused r → ∃ after : State, after.refused = true ∧
    (r = .refusedState after ∨ ∃ w, r = .reservedCommand w after)) ∧
  (∀ s t : State, step s = .next t → s.refused = false ∧ t.refused = false)

/-- R56, R57, R59: a byte the host writes to OAM or to pattern memory is what every later read of its
address gives, every other byte reads as before, and a step reads memory with all the host's actions
since the step before done, the last write to an address counting (their order: log entry 7, DEDUCED). -/
def Obligations.HostWritesAreSeen : Prop :=
  (∀ (s : State) (a b : BitVec 8) (v : Byte),
    (s.hostAction (.writeOam a v)).memReadOam b = if b = a then v else s.memReadOam b) ∧
  (∀ (s : State) (a b : U16) (v : Byte),
    (s.hostAction (.writePat a v)).memReadPat b = if b = a then v else s.memReadPat b) ∧
  (∀ (s : State) (a : BitVec 8) (v : Byte) (pre post : List HostAction),
    s.nextInput.actions = pre ++ [.writeOam a v] ++ post → (∀ u, .writeOam a u ∉ post) →
    s.beginStep.memReadOam a = v) ∧
  (∀ (s : State) (a : U16) (v : Byte) (pre post : List HostAction),
    s.nextInput.actions = pre ++ [.writePat a v] ++ post → (∀ u, .writePat a u ∉ post) →
    s.beginStep.memReadPat a = v) ∧
  (∀ (s : State) (a : BitVec 8), (∀ u, .writeOam a u ∉ s.nextInput.actions) →
    s.beginStep.memReadOam a = s.memReadOam a) ∧
  (∀ (s : State) (a : U16), (∀ u, .writePat a u ∉ s.nextInput.actions) →
    s.beginStep.memReadPat a = s.memReadPat a)

/-- R44, R234: at power-on no byte of OAM is listed, so each reads as its drawn value (the model's form of
the draw, log entry 3); once the host has written all 256 bytes, every OAM read gives a byte it wrote, so
no result rests on the drawn content. -/
def Obligations.WrittenOamHidesPowerUp : Prop :=
  (∀ a, State.reset.memReadOam a = Config.unlistedByte .oam a.toNat) ∧
  ∀ (s : State) (a : BitVec 8), s.oamWritten = true → ∃ v, (a.toNat, v) ∈ s.oam ∧ s.memReadOam a = v

/-- R41, R50: the invariants of the state hold after reset. -/
def Obligations.InvariantAtReset : Prop := State.reset.Inv

/-- R41, R50: every step keeps the invariants of the state (count at most 8, overflow only when full,
unfilled slots all zero, rising OAM indices) and the canonical form of the two memories, from every
state that has them and under every host input. -/
def Obligations.InvariantKeptByStep : Prop :=
  ∀ s t : State, s.Inv → step s = .next t → t.Inv

/-- R191, R201, R213: a run in which the host issues no reserved word never stops and never sets the mark,
for any number of steps from any unmarked state. The inputs are a list in the state (log entry 1, DESIGN
CHOICE). -/
def Obligations.LegalRunNeverStops : Prop :=
  ∀ (k : Nat) (s : State), s.refused = false → (∀ inp ∈ s.inputs, inp.legal = true) →
    ∃ t : State, runSteps k s = .next t ∧ t.refused = false

/-- R244: slot data, SPRITE_COUNT and OVERFLOW hold their values over every step that is neither an EVAL
nor a reset, whatever the host writes before it. -/
def Obligations.EvaluationHeldBetweenEvals : Prop :=
  ∀ (s t : State), step s = .next t → s.nextInput.reset = false →
    (∀ w i, s.nextInput.cmd = some w → decode w = .command i → isEval i = false) →
    t.slots = s.slots ∧ t.spriteCount = s.spriteCount ∧ t.overflow = s.overflow

/-- R37, R26, R28: the output ports are views of the state: the count, the flag and each slot's pattern and
priority as they are, POSX zero-extended to 32 bits (its upper 24 bits are 0) and OAMIDX to 8 bits (0 to
63). -/
def Obligations.OutputPortsShowState : Prop :=
  ∀ (s : State) (k : Fin 8),
    s.sprCount = s.spriteCount ∧ (s.sprOverflow = 1#1 ↔ s.overflow = true) ∧
    s.slotPattern k = s.slots[k].pattern ∧ (s.slotPrio k = 1#1 ↔ s.slots[k].prio = true) ∧
    (s.slotPosx k).toNat = s.slots[k].posX.toNat ∧ (s.slotPosx k).extractLsb' 8 24 = 0#24 ∧
    (s.slotOamidx k).toNat = s.slots[k].oamIdx.toNat ∧ (s.slotOamidx k).toNat < 64 ∧
    (s.outValid = true ↔ ∃ v, s.out = some v)
end

