-- ==== Sys2Proof/Laws/State.lean ====
section
/-!
SUPPORT. What each update of the state does to each field: one lemma per field per update, all true by rfl.
-/
namespace Sys2Proof.Machine

variable (s : State)

/-! ### State.setHigh32 -/

@[simp] theorem State.setHigh32_high32 (v : U32) : (s.setHigh32 v).high32 = v := rfl
@[simp] theorem State.setHigh32_low32 (v : U32) : (s.setHigh32 v).low32 = s.low32 := rfl
@[simp] theorem State.setHigh32_slots (v : U32) : (s.setHigh32 v).slots = s.slots := rfl
@[simp] theorem State.setHigh32_spriteCount (v : U32) : (s.setHigh32 v).spriteCount = s.spriteCount := rfl
@[simp] theorem State.setHigh32_overflow (v : U32) : (s.setHigh32 v).overflow = s.overflow := rfl
@[simp] theorem State.setHigh32_oam (v : U32) : (s.setHigh32 v).oam = s.oam := rfl
@[simp] theorem State.setHigh32_pat (v : U32) : (s.setHigh32 v).pat = s.pat := rfl
@[simp] theorem State.setHigh32_out (v : U32) : (s.setHigh32 v).out = s.out := rfl
@[simp] theorem State.setHigh32_refused (v : U32) : (s.setHigh32 v).refused = s.refused := rfl
@[simp] theorem State.setHigh32_draws (v : U32) : (s.setHigh32 v).draws = s.draws := rfl
@[simp] theorem State.setHigh32_inputs (v : U32) : (s.setHigh32 v).inputs = s.inputs := rfl

/-! ### State.setLow32 -/

@[simp] theorem State.setLow32_high32 (v : U32) : (s.setLow32 v).high32 = s.high32 := rfl
@[simp] theorem State.setLow32_low32 (v : U32) : (s.setLow32 v).low32 = v := rfl
@[simp] theorem State.setLow32_slots (v : U32) : (s.setLow32 v).slots = s.slots := rfl
@[simp] theorem State.setLow32_spriteCount (v : U32) : (s.setLow32 v).spriteCount = s.spriteCount := rfl
@[simp] theorem State.setLow32_overflow (v : U32) : (s.setLow32 v).overflow = s.overflow := rfl
@[simp] theorem State.setLow32_oam (v : U32) : (s.setLow32 v).oam = s.oam := rfl
@[simp] theorem State.setLow32_pat (v : U32) : (s.setLow32 v).pat = s.pat := rfl
@[simp] theorem State.setLow32_out (v : U32) : (s.setLow32 v).out = s.out := rfl
@[simp] theorem State.setLow32_refused (v : U32) : (s.setLow32 v).refused = s.refused := rfl
@[simp] theorem State.setLow32_draws (v : U32) : (s.setLow32 v).draws = s.draws := rfl
@[simp] theorem State.setLow32_inputs (v : U32) : (s.setLow32 v).inputs = s.inputs := rfl

/-! ### State.result -/

@[simp] theorem State.result_high32 (v : U32) : (s.result v).high32 = s.high32 := rfl
@[simp] theorem State.result_low32 (v : U32) : (s.result v).low32 = s.low32 := rfl
@[simp] theorem State.result_slots (v : U32) : (s.result v).slots = s.slots := rfl
@[simp] theorem State.result_spriteCount (v : U32) : (s.result v).spriteCount = s.spriteCount := rfl
@[simp] theorem State.result_overflow (v : U32) : (s.result v).overflow = s.overflow := rfl
@[simp] theorem State.result_oam (v : U32) : (s.result v).oam = s.oam := rfl
@[simp] theorem State.result_pat (v : U32) : (s.result v).pat = s.pat := rfl
@[simp] theorem State.result_out (v : U32) : (s.result v).out = some v := rfl
@[simp] theorem State.result_refused (v : U32) : (s.result v).refused = s.refused := rfl
@[simp] theorem State.result_draws (v : U32) : (s.result v).draws = s.draws := rfl
@[simp] theorem State.result_inputs (v : U32) : (s.result v).inputs = s.inputs := rfl

/-! ### State.noResult -/

@[simp] theorem State.noResult_high32 : s.noResult.high32 = s.high32 := rfl
@[simp] theorem State.noResult_low32 : s.noResult.low32 = s.low32 := rfl
@[simp] theorem State.noResult_slots : s.noResult.slots = s.slots := rfl
@[simp] theorem State.noResult_spriteCount : s.noResult.spriteCount = s.spriteCount := rfl
@[simp] theorem State.noResult_overflow : s.noResult.overflow = s.overflow := rfl
@[simp] theorem State.noResult_oam : s.noResult.oam = s.oam := rfl
@[simp] theorem State.noResult_pat : s.noResult.pat = s.pat := rfl
@[simp] theorem State.noResult_out : s.noResult.out = none := rfl
@[simp] theorem State.noResult_refused : s.noResult.refused = s.refused := rfl
@[simp] theorem State.noResult_draws : s.noResult.draws = s.draws := rfl
@[simp] theorem State.noResult_inputs : s.noResult.inputs = s.inputs := rfl

/-! ### State.drawn -/

@[simp] theorem State.drawn_high32 : s.drawn.high32 = s.high32 := rfl
@[simp] theorem State.drawn_low32 : s.drawn.low32 = s.low32 := rfl
@[simp] theorem State.drawn_slots : s.drawn.slots = s.slots := rfl
@[simp] theorem State.drawn_spriteCount : s.drawn.spriteCount = s.spriteCount := rfl
@[simp] theorem State.drawn_overflow : s.drawn.overflow = s.overflow := rfl
@[simp] theorem State.drawn_oam : s.drawn.oam = s.oam := rfl
@[simp] theorem State.drawn_pat : s.drawn.pat = s.pat := rfl
@[simp] theorem State.drawn_out : s.drawn.out = s.out := rfl
@[simp] theorem State.drawn_refused : s.drawn.refused = s.refused := rfl
@[simp] theorem State.drawn_draws : s.drawn.draws = s.draws + 1 := rfl
@[simp] theorem State.drawn_inputs : s.drawn.inputs = s.inputs := rfl

/-! ### State.setEvaluation -/

@[simp] theorem State.setEvaluation_high32 (sl : Vector Slot 8) (c : Byte) (o : Bool) : (s.setEvaluation sl c o).high32 = s.high32 := rfl
@[simp] theorem State.setEvaluation_low32 (sl : Vector Slot 8) (c : Byte) (o : Bool) : (s.setEvaluation sl c o).low32 = s.low32 := rfl
@[simp] theorem State.setEvaluation_slots (sl : Vector Slot 8) (c : Byte) (o : Bool) : (s.setEvaluation sl c o).slots = sl := rfl
@[simp] theorem State.setEvaluation_spriteCount (sl : Vector Slot 8) (c : Byte) (o : Bool) : (s.setEvaluation sl c o).spriteCount = c := rfl
@[simp] theorem State.setEvaluation_overflow (sl : Vector Slot 8) (c : Byte) (o : Bool) : (s.setEvaluation sl c o).overflow = o := rfl
@[simp] theorem State.setEvaluation_oam (sl : Vector Slot 8) (c : Byte) (o : Bool) : (s.setEvaluation sl c o).oam = s.oam := rfl
@[simp] theorem State.setEvaluation_pat (sl : Vector Slot 8) (c : Byte) (o : Bool) : (s.setEvaluation sl c o).pat = s.pat := rfl
@[simp] theorem State.setEvaluation_out (sl : Vector Slot 8) (c : Byte) (o : Bool) : (s.setEvaluation sl c o).out = s.out := rfl
@[simp] theorem State.setEvaluation_refused (sl : Vector Slot 8) (c : Byte) (o : Bool) : (s.setEvaluation sl c o).refused = s.refused := rfl
@[simp] theorem State.setEvaluation_draws (sl : Vector Slot 8) (c : Byte) (o : Bool) : (s.setEvaluation sl c o).draws = s.draws := rfl
@[simp] theorem State.setEvaluation_inputs (sl : Vector Slot 8) (c : Byte) (o : Bool) : (s.setEvaluation sl c o).inputs = s.inputs := rfl

/-! ### State.applyReset -/

@[simp] theorem State.applyReset_high32 : s.applyReset.high32 = 0#32 := rfl
@[simp] theorem State.applyReset_low32 : s.applyReset.low32 = 0#32 := rfl
@[simp] theorem State.applyReset_slots : s.applyReset.slots = Vector.replicate 8 Slot.zero := rfl
@[simp] theorem State.applyReset_spriteCount : s.applyReset.spriteCount = 0#8 := rfl
@[simp] theorem State.applyReset_overflow : s.applyReset.overflow = false := rfl
@[simp] theorem State.applyReset_oam : s.applyReset.oam = s.oam := rfl
@[simp] theorem State.applyReset_pat : s.applyReset.pat = s.pat := rfl
@[simp] theorem State.applyReset_out : s.applyReset.out = none := rfl
@[simp] theorem State.applyReset_refused : s.applyReset.refused = s.refused := rfl
@[simp] theorem State.applyReset_draws : s.applyReset.draws = s.draws := rfl
@[simp] theorem State.applyReset_inputs : s.applyReset.inputs = s.inputs := rfl

/-! ### State.markRefused -/

@[simp] theorem State.markRefused_high32 : s.markRefused.high32 = s.high32 := rfl
@[simp] theorem State.markRefused_low32 : s.markRefused.low32 = s.low32 := rfl
@[simp] theorem State.markRefused_slots : s.markRefused.slots = s.slots := rfl
@[simp] theorem State.markRefused_spriteCount : s.markRefused.spriteCount = s.spriteCount := rfl
@[simp] theorem State.markRefused_overflow : s.markRefused.overflow = s.overflow := rfl
@[simp] theorem State.markRefused_oam : s.markRefused.oam = s.oam := rfl
@[simp] theorem State.markRefused_pat : s.markRefused.pat = s.pat := rfl
@[simp] theorem State.markRefused_out : s.markRefused.out = none := rfl
@[simp] theorem State.markRefused_refused : s.markRefused.refused = true := rfl
@[simp] theorem State.markRefused_draws : s.markRefused.draws = s.draws := rfl
@[simp] theorem State.markRefused_inputs : s.markRefused.inputs = s.inputs := rfl

/-! ### State.memWriteOam -/

@[simp] theorem State.memWriteOam_high32 (a : BitVec 8) (v : Byte) : (s.memWriteOam a v).high32 = s.high32 := rfl
@[simp] theorem State.memWriteOam_low32 (a : BitVec 8) (v : Byte) : (s.memWriteOam a v).low32 = s.low32 := rfl
@[simp] theorem State.memWriteOam_slots (a : BitVec 8) (v : Byte) : (s.memWriteOam a v).slots = s.slots := rfl
@[simp] theorem State.memWriteOam_spriteCount (a : BitVec 8) (v : Byte) : (s.memWriteOam a v).spriteCount = s.spriteCount := rfl
@[simp] theorem State.memWriteOam_overflow (a : BitVec 8) (v : Byte) : (s.memWriteOam a v).overflow = s.overflow := rfl
@[simp] theorem State.memWriteOam_oam (a : BitVec 8) (v : Byte) : (s.memWriteOam a v).oam = Memory.write s.oam a.toNat v := rfl
@[simp] theorem State.memWriteOam_pat (a : BitVec 8) (v : Byte) : (s.memWriteOam a v).pat = s.pat := rfl
@[simp] theorem State.memWriteOam_out (a : BitVec 8) (v : Byte) : (s.memWriteOam a v).out = s.out := rfl
@[simp] theorem State.memWriteOam_refused (a : BitVec 8) (v : Byte) : (s.memWriteOam a v).refused = s.refused := rfl
@[simp] theorem State.memWriteOam_draws (a : BitVec 8) (v : Byte) : (s.memWriteOam a v).draws = s.draws := rfl
@[simp] theorem State.memWriteOam_inputs (a : BitVec 8) (v : Byte) : (s.memWriteOam a v).inputs = s.inputs := rfl

/-! ### State.memWritePat -/

@[simp] theorem State.memWritePat_high32 (a : U16) (v : Byte) : (s.memWritePat a v).high32 = s.high32 := rfl
@[simp] theorem State.memWritePat_low32 (a : U16) (v : Byte) : (s.memWritePat a v).low32 = s.low32 := rfl
@[simp] theorem State.memWritePat_slots (a : U16) (v : Byte) : (s.memWritePat a v).slots = s.slots := rfl
@[simp] theorem State.memWritePat_spriteCount (a : U16) (v : Byte) : (s.memWritePat a v).spriteCount = s.spriteCount := rfl
@[simp] theorem State.memWritePat_overflow (a : U16) (v : Byte) : (s.memWritePat a v).overflow = s.overflow := rfl
@[simp] theorem State.memWritePat_oam (a : U16) (v : Byte) : (s.memWritePat a v).oam = s.oam := rfl
@[simp] theorem State.memWritePat_pat (a : U16) (v : Byte) : (s.memWritePat a v).pat = Memory.write s.pat a.toNat v := rfl
@[simp] theorem State.memWritePat_out (a : U16) (v : Byte) : (s.memWritePat a v).out = s.out := rfl
@[simp] theorem State.memWritePat_refused (a : U16) (v : Byte) : (s.memWritePat a v).refused = s.refused := rfl
@[simp] theorem State.memWritePat_draws (a : U16) (v : Byte) : (s.memWritePat a v).draws = s.draws := rfl
@[simp] theorem State.memWritePat_inputs (a : U16) (v : Byte) : (s.memWritePat a v).inputs = s.inputs := rfl

/-! ### State.dropInput -/

@[simp] theorem State.dropInput_high32 : s.dropInput.high32 = s.high32 := rfl
@[simp] theorem State.dropInput_low32 : s.dropInput.low32 = s.low32 := rfl
@[simp] theorem State.dropInput_slots : s.dropInput.slots = s.slots := rfl
@[simp] theorem State.dropInput_spriteCount : s.dropInput.spriteCount = s.spriteCount := rfl
@[simp] theorem State.dropInput_overflow : s.dropInput.overflow = s.overflow := rfl
@[simp] theorem State.dropInput_oam : s.dropInput.oam = s.oam := rfl
@[simp] theorem State.dropInput_pat : s.dropInput.pat = s.pat := rfl
@[simp] theorem State.dropInput_out : s.dropInput.out = s.out := rfl
@[simp] theorem State.dropInput_refused : s.dropInput.refused = s.refused := rfl
@[simp] theorem State.dropInput_draws : s.dropInput.draws = s.draws := rfl
@[simp] theorem State.dropInput_inputs : s.dropInput.inputs = s.inputs.tail := rfl

/-! ### State.presentWord -/

@[simp] theorem State.presentWord_high32 (w : CmdWord) : (s.presentWord w).high32 = s.high32 := rfl
@[simp] theorem State.presentWord_low32 (w : CmdWord) : (s.presentWord w).low32 = s.low32 := rfl
@[simp] theorem State.presentWord_slots (w : CmdWord) : (s.presentWord w).slots = s.slots := rfl
@[simp] theorem State.presentWord_spriteCount (w : CmdWord) : (s.presentWord w).spriteCount = s.spriteCount := rfl
@[simp] theorem State.presentWord_overflow (w : CmdWord) : (s.presentWord w).overflow = s.overflow := rfl
@[simp] theorem State.presentWord_oam (w : CmdWord) : (s.presentWord w).oam = s.oam := rfl
@[simp] theorem State.presentWord_pat (w : CmdWord) : (s.presentWord w).pat = s.pat := rfl
@[simp] theorem State.presentWord_out (w : CmdWord) : (s.presentWord w).out = s.out := rfl
@[simp] theorem State.presentWord_refused (w : CmdWord) : (s.presentWord w).refused = s.refused := rfl
@[simp] theorem State.presentWord_draws (w : CmdWord) : (s.presentWord w).draws = s.draws := rfl
@[simp] theorem State.presentWord_inputs (w : CmdWord) : (s.presentWord w).inputs = ⟨[], false, some w⟩ :: s.inputs := rfl

end Sys2Proof.Machine
end

