-- ==== Sys2Proof/Laws/Fetch.lean ====
section
/-!
SUPPORT. Packed rows and the reads of FetchRow.
-/
namespace Sys2Proof.Machine

/-- Bit `j` of column `c` of a row is bit `(7-c)*4 + j` of the row (00_scope.md R15). -/
theorem pixelColumn_getLsbD (r : U32) (c j : Nat) (hj : j < 4) :
    (pixelColumn r c).getLsbD j = r.getLsbD ((7 - c) * 4 + j) := by
  simp [pixelColumn, hj]

/-- Column `c` of a packed row is the nibble it was packed from (42_pattern_fetch.md R167). -/
theorem pixelColumn_packRow (nib : Nat → BitVec 4) (c : Nat) (hc : c < 8) :
    pixelColumn (packRow nib) c = nib c := by
  apply BitVec.eq_of_getLsbD_eq
  intro j hj
  rw [pixelColumn_getLsbD _ _ _ hj]
  interval_cases c <;> interval_cases j <;> simp [packRow, List.range, List.range.loop]

/-- Two rows with the same eight columns are equal. -/
theorem eq_of_pixelColumn_eq (r q : U32) (h : ∀ c < 8, pixelColumn r c = pixelColumn q c) : r = q := by
  apply BitVec.eq_of_getLsbD_eq
  intro j hj
  have hc := congrArg (fun b => b.getLsbD (j % 4)) (h (7 - j / 4) (by omega))
  simp only [pixelColumn_getLsbD _ _ _ (Nat.mod_lt j (by decide : 0 < 4))] at hc
  have : (7 - (7 - j / 4)) * 4 + j % 4 = j := by omega
  rwa [this] at hc

/-- Column `c` of a fetched row (R165 to R167). -/
theorem State.pixelColumn_fetchRow (s : State) (i : BitVec 6) (row : U32) (size : SpriteSize)
    (table : TableSelect) (c : Nat) (hc : c < 8) :
    pixelColumn (s.fetchRow i row size table) c =
      pixelNibble (s.oamEntry i).attr (s.memReadPat (lowPlaneAddr (s.spriteTileRow i row size table)))
        (s.memReadPat (highPlaneAddr (s.spriteTileRow i row size table))) c :=
  pixelColumn_packRow _ c hc

/-- FetchRow depends on pattern memory and on the tile and attribute bytes of its entry (R171). -/
theorem State.fetchRow_congr {s s' : State} {i : BitVec 6} (row : U32) (size : SpriteSize)
    (table : TableSelect) (hp : ∀ a, s'.memReadPat a = s.memReadPat a)
    (ht : (s'.oamEntry i).tile = (s.oamEntry i).tile) (ha : (s'.oamEntry i).attr = (s.oamEntry i).attr) :
    s'.fetchRow i row size table = s.fetchRow i row size table := by
  simp only [State.fetchRow, State.spriteTileRow, hp, ht, ha]

end Sys2Proof.Machine
end

