-- ==== Sys2Proof/Laws/Memory.lean ====
section
/-!
SUPPORT. The memory operations: a read after a write, and the canonical form that every write keeps.
-/
namespace Sys2Proof.Machine

@[simp] theorem Memory.read_nil (a : Nat) : Memory.read [] a = none := rfl

/-- A read after a write gives the byte written at its address, and what was there elsewhere. -/
theorem Memory.read_write (m : Memory) (a b : Nat) (v : Byte) :
    Memory.read (Memory.write m a v) b = if b = a then some v else Memory.read m b := by
  induction m with
  | nil => simp [Memory.write, Memory.read]
  | cons c m ih =>
    obtain ⟨x, w⟩ := c
    by_cases hlt : a < x
    · simp [Memory.write, hlt, Memory.read]
    · by_cases hax : a = x
      · subst hax
        by_cases hb : b = a <;> simp [Memory.write, Memory.read, hb]
      · by_cases hb : b = x
        · have hba : ¬ b = a := fun h => hax (h.symm.trans hb)
          simp [Memory.write, hlt, hax, Memory.read, hb, hb ▸ hba]
        · simp [Memory.write, hlt, hax, Memory.read, hb, ih]

/-- The canonical form as a proposition. -/
theorem Memory.wf_iff (size : Nat) (m : Memory) :
    Memory.wf size m = true ↔ (∀ c ∈ m, c.1 < size) ∧ m.Pairwise (fun c d => c.1 < d.1) := by
  simp [Memory.wf]

theorem Memory.wf_nil (size : Nat) : Memory.wf size [] = true := rfl

/-- Every address of a memory after a write is the one written or one listed before. -/
theorem Memory.mem_write (m : Memory) (a : Nat) (v : Byte) (c : Host.Cell)
    (h : c ∈ Memory.write m a v) : c.1 = a ∨ c ∈ m := by
  induction m with
  | nil =>
    simp only [Memory.write, List.mem_singleton] at h
    simp [h]
  | cons d m ih =>
    obtain ⟨x, w⟩ := d
    simp only [Memory.write] at h
    split at h
    · rcases List.mem_cons.mp h with h | h
      · simp [h]
      · exact .inr h
    · split at h
      · rcases List.mem_cons.mp h with h | h
        · simp [h]
        · exact .inr (List.mem_cons_of_mem _ h)
      · rcases List.mem_cons.mp h with h | h
        · simp [h]
        · exact (ih h).imp_right (List.mem_cons_of_mem _)

/-- A write inside the memory keeps the canonical form. -/
theorem Memory.wf_write {size : Nat} {m : Memory} {a : Nat} (v : Byte) (hm : Memory.wf size m = true)
    (ha : a < size) : Memory.wf size (Memory.write m a v) = true := by
  rw [Memory.wf_iff] at hm ⊢
  obtain ⟨hlt, hpw⟩ := hm
  refine ⟨fun c hc => ?_, ?_⟩
  · rcases Memory.mem_write m a v c hc with h | h
    · omega
    · exact hlt c h
  · clear hlt ha
    induction m with
    | nil => simp [Memory.write]
    | cons d m ih =>
      obtain ⟨x, w⟩ := d
      rw [List.pairwise_cons] at hpw
      obtain ⟨hx, hpw⟩ := hpw
      simp only [Memory.write]
      split
      · next hax =>
        refine List.pairwise_cons.mpr ⟨fun c hc => ?_, List.pairwise_cons.mpr ⟨hx, hpw⟩⟩
        rcases List.mem_cons.mp hc with h | h
        · simpa [h] using hax
        · exact Nat.lt_trans hax (hx c h)
      · next hax =>
        split
        · next heq => exact List.pairwise_cons.mpr ⟨fun c hc => heq ▸ hx c hc, hpw⟩
        · next hne =>
          refine List.pairwise_cons.mpr ⟨fun c hc => ?_, ih hpw⟩
          rcases Memory.mem_write m a v c hc with h | h
          · simp only [h]; omega
          · exact hx c h

/-- No address below every listed one is listed. -/
theorem Memory.read_eq_none_of_lt (m : Memory) (a : Nat) (h : ∀ c ∈ m, a < c.1) :
    Memory.read m a = none := by
  induction m with
  | nil => rfl
  | cons d m ih =>
    obtain ⟨x, w⟩ := d
    have hx : a ≠ x := Nat.ne_of_lt (h (x, w) List.mem_cons_self)
    simp [Memory.read, hx, ih fun c hc => h c (List.mem_cons_of_mem _ hc)]

/-- Two memories in canonical form that list the same byte at every address are equal. -/
theorem Memory.ext_of_wf {size : Nat} {m n : Memory} (hm : Memory.wf size m = true)
    (hn : Memory.wf size n = true) (h : ∀ a, Memory.read m a = Memory.read n a) : m = n := by
  rw [Memory.wf_iff] at hm hn
  obtain ⟨-, hm⟩ := hm
  obtain ⟨-, hn⟩ := hn
  induction m generalizing n with
  | nil =>
    cases n with
    | nil => rfl
    | cons d n => have := h d.1; simp [Memory.read] at this
  | cons c m ih =>
    obtain ⟨x, v⟩ := c
    cases n with
    | nil => have := h x; simp [Memory.read] at this
    | cons d n =>
      obtain ⟨y, w⟩ := d
      rw [List.pairwise_cons] at hm hn
      have hm0 : ∀ a, a ≤ x → Memory.read m a = none := fun a ha =>
        Memory.read_eq_none_of_lt m a fun c hc => Nat.lt_of_le_of_lt ha (hm.1 c hc)
      have hn0 : ∀ a, a ≤ y → Memory.read n a = none := fun a ha =>
        Memory.read_eq_none_of_lt n a fun c hc => Nat.lt_of_le_of_lt ha (hn.1 c hc)
      have hxy : x = y := by
        rcases Nat.lt_trichotomy x y with hlt | heq | hgt
        · have := h x
          simp [Memory.read, Nat.ne_of_lt hlt, hn0 x (Nat.le_of_lt hlt)] at this
        · exact heq
        · have := h y
          simp [Memory.read, Nat.ne_of_lt hgt, hm0 y (Nat.le_of_lt hgt)] at this
      subst hxy
      have hvw : v = w := by simpa [Memory.read] using h x
      subst hvw
      have htail : ∀ a, Memory.read m a = Memory.read n a := fun a => by
        by_cases ha : a = x
        · rw [hm0 a (Nat.le_of_eq ha), hn0 a (Nat.le_of_eq ha)]
        · simpa [Memory.read, ha] using h a
      rw [ih htail hm.2 hn.2]

/-- A host write to OAM, read back (20_memory.md R56). -/
theorem State.memReadOam_memWriteOam (s : State) (a b : BitVec 8) (v : Byte) :
    (s.memWriteOam a v).memReadOam b = if b = a then v else s.memReadOam b := by
  by_cases h : b = a
  · simp [State.memReadOam, Memory.readByte, Memory.read_write, h]
  · have : b.toNat ≠ a.toNat := fun e => h (BitVec.eq_of_toNat_eq e)
    simp [State.memReadOam, Memory.readByte, Memory.read_write, h, this]

/-- A host change of `PAT`, read back (R57). -/
theorem State.memReadPat_memWritePat (s : State) (a b : U16) (v : Byte) :
    (s.memWritePat a v).memReadPat b = if b = a then v else s.memReadPat b := by
  by_cases h : b = a
  · simp [State.memReadPat, Memory.readByte, Memory.read_write, h]
  · have : b.toNat ≠ a.toNat := fun e => h (BitVec.eq_of_toNat_eq e)
    simp [State.memReadPat, Memory.readByte, Memory.read_write, h, this]

end Sys2Proof.Machine
end

