-- ==== Sys2Proof/Laws/Ops.lean ====
section
/-!
SUPPORT. What the host's actions, the start of a step and a whole step can do: one lemma each.
-/
namespace Sys2Proof.Machine

/-- Host actions change OAM and pattern memory only. -/
theorem State.hostActions_frame (as : List HostAction) (s : State) :
    s.hostActions as = { s with oam := (s.hostActions as).oam, pat := (s.hostActions as).pat } := by
  induction as generalizing s with
  | nil => rfl
  | cons a as ih =>
    have hstep : s.hostActions (a :: as) = (s.hostAction a).hostActions as := rfl
    rw [hstep, ih (s.hostAction a)]
    cases a <;> rfl

/-- Host actions keep the canonical form of both memories. -/
theorem State.hostActions_wf (as : List HostAction) (s : State) (ho : Memory.wf 256 s.oam = true)
    (hp : Memory.wf 65536 s.pat = true) :
    Memory.wf 256 (s.hostActions as).oam = true ∧ Memory.wf 65536 (s.hostActions as).pat = true := by
  induction as generalizing s with
  | nil => exact ⟨ho, hp⟩
  | cons a as ih =>
    cases a with
    | writeOam a v => exact ih (s.memWriteOam a v) (Memory.wf_write v ho a.isLt) hp
    | writePat a v => exact ih (s.memWritePat a v) ho (Memory.wf_write v hp a.isLt)

/-- The state a step starts from differs from the state before in the memories and in the inputs to
come only. -/
theorem State.beginStep_frame (s : State) :
    s.beginStep = { s with
      oam := s.beginStep.oam, pat := s.beginStep.pat, inputs := s.inputs.tail } := by
  conv_lhs => rw [State.beginStep, State.hostActions_frame]
  rfl

/-- With no host action, only the input is taken. -/
theorem State.beginStep_of_no_action (s : State) (h : s.nextInput.actions = []) :
    s.beginStep = s.dropInput := by
  rw [State.beginStep, h]; rfl

@[simp] theorem State.beginStep_high32 (s : State) : s.beginStep.high32 = s.high32 := by
  rw [s.beginStep_frame]
@[simp] theorem State.beginStep_low32 (s : State) : s.beginStep.low32 = s.low32 := by
  rw [s.beginStep_frame]
@[simp] theorem State.beginStep_slots (s : State) : s.beginStep.slots = s.slots := by
  rw [s.beginStep_frame]
@[simp] theorem State.beginStep_spriteCount (s : State) : s.beginStep.spriteCount = s.spriteCount := by
  rw [s.beginStep_frame]
@[simp] theorem State.beginStep_overflow (s : State) : s.beginStep.overflow = s.overflow := by
  rw [s.beginStep_frame]
@[simp] theorem State.beginStep_out (s : State) : s.beginStep.out = s.out := by
  rw [s.beginStep_frame]
@[simp] theorem State.beginStep_refused (s : State) : s.beginStep.refused = s.refused := by
  rw [s.beginStep_frame]
@[simp] theorem State.beginStep_draws (s : State) : s.beginStep.draws = s.draws := by
  rw [s.beginStep_frame]
@[simp] theorem State.beginStep_inputs (s : State) : s.beginStep.inputs = s.inputs.tail := by
  rw [s.beginStep_frame]

/-- The start of a step keeps the canonical form of both memories. -/
theorem State.beginStep_wf (s : State) (ho : Memory.wf 256 s.oam = true)
    (hp : Memory.wf 65536 s.pat = true) :
    Memory.wf 256 s.beginStep.oam = true ∧ Memory.wf 65536 s.beginStep.pat = true :=
  State.hostActions_wf s.nextInput.actions s.dropInput ho hp

/-- What a step that goes on can be: a reset, or a command (NOP where the host presents none). -/
theorem step_cases {s t : State} (h : step s = .next t) :
    s.refused = false ∧
      ((s.nextInput.reset = true ∧ t = s.beginStep.applyReset) ∨
        (s.nextInput.reset = false ∧ ∃ i, exec i s.beginStep = .next t ∧
          ((s.nextInput.cmd = none ∧ i = .nop) ∨
            ∃ w, s.nextInput.cmd = some w ∧ decode w = .command i))) := by
  simp only [step, cycle] at h
  split at h
  · simp [refusedStep] at h
  · next hr =>
    refine ⟨by simpa using hr, ?_⟩
    split at h
    · next hreset => exact .inl ⟨hreset, by simpa using h.symm⟩
    · next hreset =>
      refine .inr ⟨by simpa using hreset, ?_⟩
      cases hc : s.nextInput.cmd with
      | none => exact ⟨.nop, by simpa [commandStep, hc] using h, .inl ⟨rfl, rfl⟩⟩
      | some w =>
        cases hd : decode w with
        | command i => exact ⟨i, by simpa [commandStep, hc, hd] using h, .inr ⟨w, rfl, hd⟩⟩
        | reserved r => simp [commandStep, hc, hd] at h

end Sys2Proof.Machine
end

