-- ==== Sys2Proof/Laws/PerInstr.lean ====
section
/-!
SUPPORT. The statements made per constructor of Instr (LAWS.json). Family NotReserved: the word of a command is
no reserved word (30_encoding.md R77, R78, R83).
-/
namespace Sys2Proof.Laws.NotReserved

/-- The encoder sets no reserved bit and no field the opcode does not use (R77, R78). -/
def Statement (i : Instr) : Prop := reservedWord (encode i) = false

/-- The fields of a packed word are those it was packed from, and its reserved bits are 0 (R72, R77). -/
theorem fields_packWord (imm : U32) (idx : BitVec 6) (fx : Byte) (t l : BitVec 1) (op : BitVec 4) :
    fieldOp (packWord imm idx fx t l op) = op ∧ fieldRes0 (packWord imm idx fx t l op) = 0#2 ∧
    fieldFx (packWord imm idx fx t l op) = fx ∧ fieldIdx (packWord imm idx fx t l op) = idx ∧
    fieldRes1 (packWord imm idx fx t l op) = 0#10 ∧ fieldImm (packWord imm idx fx t l op) = imm ∧
    (packWord imm idx fx t l op).getLsbD 4 = l.getLsbD 0 ∧
    (packWord imm idx fx t l op).getLsbD 5 = t.getLsbD 0 := by
  refine ⟨?_, ?_, ?_, ?_, ?_, ?_, ?_, ?_⟩
  all_goals try (apply BitVec.eq_of_getLsbD_eq; intro j hj; interval_cases j)
  all_goals simp [fieldOp, fieldRes0, fieldFx, fieldIdx, fieldRes1, fieldImm, packWord]

/-- A packed word is not reserved if its opcode is defined and each field its opcode does not use is 0. -/
theorem packWord_not_reserved (imm : U32) (idx : BitVec 6) (fx : Byte) (t l : BitVec 1) (op : BitVec 4)
    (hop : op.toNat ≤ 8) (hlt : opUsesLT op = true ∨ (l = 0#1 ∧ t = 0#1))
    (hfx : opUsesFx op = true ∨ fx = 0#8) (hidx : opUsesIdx op = true ∨ idx = 0#6)
    (himm : opUsesImm op = true ∨ imm = 0#32) :
    reservedWord (packWord imm idx fx t l op) = false := by
  obtain ⟨eop, e0, efx, eidx, e1, eimm, el, et⟩ := fields_packWord imm idx fx t l op
  have h1 : opReserved (packWord imm idx fx t l op) = false := by
    simp only [opReserved, eop, decide_eq_false_iff_not]; omega
  have h2 : reservedBitSet (packWord imm idx fx t l op) = false := by
    rw [reservedBitSet, e0, e1]; rfl
  have h3 : unusedFieldSet (packWord imm idx fx t l op) = false := by
    simp only [unusedFieldSet, eop, efx, eidx, eimm, el, et]
    rcases hlt with h | ⟨rfl, rfl⟩ <;> rcases hfx with hf | rfl <;> rcases hidx with hi | rfl <;>
      rcases himm with hm | rfl <;> simp [*]
  rw [reservedWord, h1, h2, h3]; rfl

theorem nop : Statement .nop := packWord_not_reserved _ _ _ _ _ _ (by decide)
  (.inr ⟨rfl, rfl⟩) (.inr rfl) (.inr rfl) (.inr rfl)
theorem setlo (imm : U32) : Statement (.setlo imm) := packWord_not_reserved _ _ _ _ _ _ (by decide)
  (.inr ⟨rfl, rfl⟩) (.inr rfl) (.inr rfl) (.inl rfl)
theorem sethi (imm : U32) : Statement (.sethi imm) := packWord_not_reserved _ _ _ _ _ _ (by decide)
  (.inr ⟨rfl, rfl⟩) (.inr rfl) (.inr rfl) (.inl rfl)
theorem shl4 : Statement .shl4 := packWord_not_reserved _ _ _ _ _ _ (by decide)
  (.inr ⟨rfl, rfl⟩) (.inr rfl) (.inr rfl) (.inr rfl)
theorem getpix (fx : Byte) : Statement (.getpix fx) := packWord_not_reserved _ _ _ _ _ _ (by decide)
  (.inr ⟨rfl, rfl⟩) (.inl rfl) (.inr rfl) (.inr rfl)
theorem gethi : Statement .gethi := packWord_not_reserved _ _ _ _ _ _ (by decide)
  (.inr ⟨rfl, rfl⟩) (.inr rfl) (.inr rfl) (.inr rfl)
theorem getlo : Statement .getlo := packWord_not_reserved _ _ _ _ _ _ (by decide)
  (.inr ⟨rfl, rfl⟩) (.inr rfl) (.inr rfl) (.inr rfl)
theorem eval (size : SpriteSize) (table : TableSelect) (scanline : U32) :
    Statement (.eval size table scanline) := packWord_not_reserved _ _ _ _ _ _ (by decide)
  (.inl rfl) (.inr rfl) (.inr rfl) (.inl rfl)
theorem fetch (size : SpriteSize) (table : TableSelect) (idx : BitVec 6) (row : U32) :
    Statement (.fetch size table idx row) := packWord_not_reserved _ _ _ _ _ _ (by decide)
  (.inl rfl) (.inr rfl) (.inl rfl) (.inl rfl)

end Sys2Proof.Laws.NotReserved
end

