-- ==== Sys2Proof/Laws/Scan.lean ====
section
/-!
SUPPORT. What the scan of EVAL does: it counts the entries in range and fills the slots with the first
eight of them (41_sprite_eval.md R132), said once for any list of entries.
-/
namespace Sys2Proof.Machine

/-- The scan of a list of entries from any point: the count grows by the entries in range, and slot `k`
takes the entry that comes `k` minus the old count later, if there is one. -/
theorem State.foldl_scanEntry (s : State) (size : SpriteSize) (table : TableSelect) (scanline : U32)
    (es : List (BitVec 6)) (a : Scan) :
    (es.foldl (s.scanEntry size table scanline) a).count =
        a.count + (es.filter (s.inRange size scanline)).length ∧
      ∀ k (hk : k < 8), (es.foldl (s.scanEntry size table scanline) a).slots[k] =
        if a.count ≤ k then
          ((es.filter (s.inRange size scanline))[k - a.count]?).elim a.slots[k]
            (s.slotFrom size table scanline)
        else a.slots[k] := by
  induction es generalizing a with
  | nil => simp
  | cons i es ih =>
    rw [List.foldl_cons]
    obtain ⟨hcount, hslots⟩ := ih (s.scanEntry size table scanline a i)
    by_cases hi : s.inRange size scanline i = true
    · have hstep : s.scanEntry size table scanline a i = ⟨a.count + 1,
          if a.count < 8 then a.slots.setIfInBounds a.count (s.slotFrom size table scanline i)
          else a.slots⟩ := by simp [State.scanEntry, hi]
      refine ⟨by rw [hcount, hstep]; simp [hi]; omega, fun k hk => ?_⟩
      rw [hslots k hk, hstep]
      simp only [List.filter_cons, hi, if_true]
      rcases Nat.lt_trichotomy a.count k with hlt | heq | hgt
      · have h1 : a.count + 1 ≤ k := hlt
        have h2 : a.count ≤ k := Nat.le_of_lt hlt
        have h3 : k - a.count = (k - (a.count + 1)) + 1 := by omega
        have h4 : a.count < 8 := by omega
        have h5 : a.count ≠ k := Nat.ne_of_lt hlt
        simp [h1, h2, h3, h4, h5]
      · subst heq
        simp [hk]
      · have h1 : ¬ a.count + 1 ≤ k := by omega
        have h2 : ¬ a.count ≤ k := by omega
        have h3 : a.count ≠ k := by omega
        simp only [h1, h2, if_false]
        split <;> simp [h3]
    · have hstep : s.scanEntry size table scanline a i = a := by simp [State.scanEntry, hi]
      rw [hstep] at hcount hslots ⊢
      simpa [List.filter_cons, hi] using ⟨hcount, hslots⟩

/-- The whole scan: the count is the number of entries in range, and slot `k` holds the sprite of the
`k`-th of them, or is all zero. -/
theorem State.scan_eq (s : State) (size : SpriteSize) (table : TableSelect) (scanline : U32) :
    (s.scan size table scanline).count = (oamEntries.filter (s.inRange size scanline)).length ∧
      ∀ k (hk : k < 8), (s.scan size table scanline).slots[k] =
        ((oamEntries.filter (s.inRange size scanline))[k]?).elim Slot.zero
          (s.slotFrom size table scanline) := by
  obtain ⟨hcount, hslots⟩ := s.foldl_scanEntry size table scanline oamEntries scanStart
  refine ⟨by simpa [State.scan, scanStart] using hcount, fun k hk => ?_⟩
  simpa [State.scan, scanStart] using hslots k hk

end Sys2Proof.Machine
end

