-- ==== Sys2Proof/Tests/Slice0.lean ====
section
/-!
SUPPORT. The model's own tests, with expected values from 30_encoding.md R86 and 95_test_vectors.md (each test names
its vector), and for each statement of Obligations.lean that has hypotheses a witness that meets them.
-/
namespace Sys2Proof.Machine.Tests
open Sys2Proof Sys2Proof.Machine

/-! ### Helpers -/

/-- OAM from its entries, entry 0 first (10_state.md R33). -/
def oamOf (es : List OamEntry) : Memory :=
  (List.zip (List.range es.length) es).flatMap fun (i, e) =>
    [(4 * i, e.y), (4 * i + 1, e.tile), (4 * i + 2, e.attr), (4 * i + 3, e.x)]

/-- OAM with the entries given first and `rest` in every other entry. -/
def oamWith (es : List OamEntry) (rest : OamEntry) : Memory :=
  oamOf (es ++ List.replicate (64 - es.length) rest)

/-- A memory of `n` bytes, all `v`. -/
def uniformMemory (n : Nat) (v : Byte) : Memory := (List.range n).map fun a => (a, v)

/-- The registers of vector V-S1. -/
def shiftState : State := { State.reset with high32 := 0x12345678#32, low32 := 0x9ABCDEF0#32 }

/-- The host gives one input. -/
def withInput (s : State) (inp : HostInput) : State := { s with inputs := [inp] }

/-- The OAM and pattern memory of program P2 (the pattern bytes its EVAL reads). -/
def p2State : State :=
  { State.reset with
    oam := oamWith [⟨10, 1, 0x00, 5⟩, ⟨11, 1, 0x41, 100⟩, ⟨200, 1, 0x00, 50⟩, ⟨5, 1, 0xA2, 7⟩] ⟨0, 0, 0, 0⟩
    pat := [(0x10, 0x00), (0x11, 0xF0), (0x12, 0x81), (0x17, 0x3C), (0x18, 0x00), (0x19, 0x0F),
      (0x1A, 0x42), (0x1F, 0xFF)] }

/-- OAM of vector V-E12: the odd entries e1 to e19 at Y = 10, every other byte 0xFF. -/
def scatteredState : State :=
  { State.reset with
    oam := oamWith ((List.range 20).map fun i =>
      if i % 2 = 1 then ⟨10, 0, 0, 0⟩ else ⟨255, 255, 255, 255⟩) ⟨255, 255, 255, 255⟩ }

/-- The Y bytes of `p2State`, with other bytes elsewhere. -/
def p2OtherState : State :=
  { p2State with
    oam := oamWith [⟨10, 2, 3, 4⟩, ⟨11, 5, 6, 7⟩, ⟨200, 8, 9, 9⟩, ⟨5, 0, 0, 0⟩] ⟨0, 7, 7, 7⟩ }

/-- The OAM and pattern memory of vectors V-F1 to V-F5, with the attributes of the two entries. -/
def fetchState (a0 a1 : Byte) : State :=
  { State.reset with
    oam := oamOf [⟨0, 0x42, a0, 0⟩, ⟨0, 0x43, a1, 0⟩]
    pat := [(0x426, 0x00), (0x42E, 0x00), (0x431, 0xB1), (0x439, 0x63), (0x1426, 0x01), (0x142E, 0x80),
      (0x1431, 0xAA), (0x1439, 0x55)] }

/-- `out` of an outcome. -/
def outOf (o : Host.Outcome State Fault Refusal) : Option U32 := (nextState? o).bind State.out

/-- HIGH32 and LOW32 of an outcome. -/
def shifterOf (o : Host.Outcome State Fault Refusal) : Option (U32 × U32) :=
  (nextState? o).map fun t => (t.high32, t.low32)

/-- The state a refusal carries. -/
def refusedWith? : Host.Outcome State Fault Refusal → Option State
  | .refused (.reservedCommand _ after) => some after
  | .refused (.refusedState after) => some after
  | .refused (.notModelled _) => none
  | .next _ => none
  | .fault _ => none

/-! ### Well-formedness: an ill-formed term for each check -/

/-- R84: an immediate above 0xFFFFFFFF, in each form that has one. -/
theorem test_wf_refuses_wide_imm :
    (AsmLine.setlo 0x100000000).wf = false ∧ (AsmLine.sethi 0x100000000).wf = false ∧
    (AsmLine.eval .small (some .lower) 0x100000000).wf = false ∧
    (AsmLine.fetch .small (some .lower) 0 0x100000000).wf = false ∧
    (AsmLine.loadbg 0x100000000 0).wf = false ∧ (AsmLine.loadbg 0 0x100000000).wf = false := by decide

theorem test_wf_refuses_wide_fx : (AsmLine.getpix 256).wf = false := by decide
theorem test_wf_refuses_wide_idx : (AsmLine.fetch .large (some .lower) 64 0).wf = false := by decide
theorem test_wf_refuses_small_without_table :
    (AsmLine.eval .small none 0).wf = false ∧ (AsmLine.fetch .small none 0 0).wf = false := by decide
theorem test_wf_refuses_advance_0_and_9 :
    (AsmLine.advance 0).wf = false ∧ (AsmLine.advance 9).wf = false := by decide
theorem test_wf_accepts_edges :
    (AsmLine.setlo 0xFFFFFFFF).wf = true ∧ (AsmLine.getpix 255).wf = true ∧
    (AsmLine.fetch .large none 63 0xFFFFFFFF).wf = true ∧ (AsmLine.advance 8).wf = true := by decide

/-! ### Decoding: words written out from R72 and R86 -/

theorem test_decode_nop : decode 0x0000000000000000#64 = .command .nop := by decide
/-- 95, V-C5. -/
theorem test_decode_setlo : decode 0xFFFFFFFF00000001#64 = .command (.setlo 0xFFFFFFFF#32) := by decide
/-- R86. -/
theorem test_decode_sethi : decode 0x1234567800000002#64 = .command (.sethi 0x12345678#32) := by decide
theorem test_decode_shl4 : decode 0x0000000000000003#64 = .command .shl4 := by decide
/-- R86 and V-C5. -/
theorem test_decode_getpix : decode 0x0000000000000704#64 = .command (.getpix 7#8) ∧
    decode 0x000000000000FF04#64 = .command (.getpix 255#8) := by decide
theorem test_decode_gethi : decode 0x0000000000000005#64 = .command .gethi := by decide
theorem test_decode_getlo : decode 0x0000000000000006#64 = .command .getlo := by decide
/-- IMM, RES1, IDX, FX, RES0, T, L and OP of `EVAL.16 T1, 10`, bit by bit (R72, R86). -/
theorem test_decode_eval : decode
    0b00000000000000000000000000001010_0000000000_000000_00000000_00_1_1_0111#64 =
      .command (.eval .large .upper 10#32) := by decide
/-- `FETCH.16 T1, 63, 0` (V-C5) and `FETCH.8 T0, 1, 1` (P2). -/
theorem test_decode_fetch : decode
    0b00000000000000000000000000000000_0000000000_111111_00000000_00_1_1_1000#64 =
      .command (.fetch .large .upper 63#6 0#32) ∧
    decode 0x0000000100010008#64 = .command (.fetch .small .lower 1#6 1#32) := by decide

/-- V-C2, V-C3, V-C4: each reason a word is reserved, with its check. -/
theorem test_reserved_words :
    (opReserved 0x9#64 = true ∧ decode 0x9#64 = .reserved 0x9#64) ∧
    (opReserved 0xF#64 = true ∧ decode 0xF#64 = .reserved 0xF#64) ∧
    (reservedBitSet 0x43#64 = true ∧ decode 0x43#64 = .reserved 0x43#64) ∧
    (reservedBitSet 0x80#64 = true ∧ decode 0x80#64 = .reserved 0x80#64) ∧
    (reservedBitSet 0x400008#64 = true ∧ decode 0x400008#64 = .reserved 0x400008#64) ∧
    (unusedFieldSet 0x14#64 = true ∧ decode 0x14#64 = .reserved 0x14#64) ∧
    (unusedFieldSet 0x100000003#64 = true ∧ decode 0x100000003#64 = .reserved 0x100000003#64) ∧
    (unusedFieldSet 0x10007#64 = true ∧ decode 0x10007#64 = .reserved 0x10007#64) ∧
    (unusedFieldSet 0xC00000107#64 = true ∧ decode 0xC00000107#64 = .reserved 0xC00000107#64) := by
  decide

/-- R84, R85: the forms of the assembly syntax that stand for several words or leave `Tt` out. -/
theorem test_assemble_forms :
    assemble (.loadbg 0x12345678 0x9ABCDEF0) = some [0x1234567800000002#64, 0x9ABCDEF000000001#64] ∧
    assemble (.advance 2) = some [3#64, 3#64] ∧ assemble .idle = some [0#64] ∧
    assemble (.eval .large none 50) = some [0x0000003200000017#64] := by decide

/-- R84, R85: lines of text in the two number bases, and lines that are assembly errors. -/
theorem test_assemble_text :
    assembleText "SETLO 2596069104".toList = some [0x9ABCDEF000000001#64] ∧
    assembleText "LOADBG 0x12345678, 0x9abcdef0".toList =
      some [0x1234567800000002#64, 0x9ABCDEF000000001#64] ∧
    assembleText "FETCH.16 3, 9".toList = some [0x0000000900030018#64] ∧
    assembleText "FETCH.8 3, 9".toList = none ∧ assembleText "FETCH.16 T0, 64, 9".toList = none ∧
    assembleText "GETPIX 256".toList = none ∧ assembleText "SETLO 0x".toList = none ∧
    assembleText "SHL4 1".toList = none ∧ assembleText "SHL5".toList = none := by decide

/-! ### Shifter commands -/

/-- V-S8. -/
theorem test_setlo : shifterOf (exec (.setlo 0xDEADBEEF#32)
    { State.reset with high32 := 0x11111111#32, low32 := 0x22222222#32 }) =
      some (0x11111111#32, 0xDEADBEEF#32) := by decide
/-- V-S8. -/
theorem test_sethi : shifterOf (exec (.sethi 0#32)
    { State.reset with high32 := 0x11111111#32, low32 := 0xDEADBEEF#32 }) =
      some (0#32, 0xDEADBEEF#32) := by decide
/-- V-S2: zero fill, not a rotate. -/
theorem test_shl4_no_rotate : shifterOf (exec .shl4
    { State.reset with high32 := 0xFFFFFFFF#32, low32 := 0x0000000F#32 }) =
      some (0xFFFFFFF0#32, 0x000000F0#32) := by decide
/-- V-S1, after 8 shifts. -/
theorem test_shl4_eight : shifterOf (runCommands (List.replicate 8 .shl4) shiftState) =
    some (0x9ABCDEF0#32, 0x00000000#32) := by decide
/-- V-S5. -/
theorem test_getpix : outOf (exec (.getpix 0#8) shiftState) = some 1#32 ∧
    outOf (exec (.getpix 6#8) shiftState) = some 7#32 := by decide
/-- V-S6: the word `GETPIX 8` is valid and its step goes on. -/
theorem test_getpix_out_of_range : (nextState? (exec (.getpix 8#8) shiftState)).isSome = true := by decide
/-- P1, step 8. -/
theorem test_gethi : outOf (exec .gethi { shiftState with high32 := 0x456789AB#32 }) =
    some 0x456789AB#32 := by decide
/-- P1, step 9. -/
theorem test_getlo : outOf (exec .getlo { shiftState with low32 := 0xCDEF0000#32 }) =
    some 0xCDEF0000#32 := by decide

/-! ### Sprite evaluation -/

/-- P2, step 1: three sprites, with flips, palettes and the priority bit. -/
theorem test_eval_p2 : (nextState? (exec (.eval .small .lower 12#32) p2State)).map
    (fun t => (t.out, t.spriteCount, t.overflow, t.slots)) =
    some (some 0x00000003#32, 3#8, false,
      #v[⟨0x12000021, 5, false, 0⟩, ⟨0x66665555, 100, false, 1⟩, ⟨0x88888888, 7, true, 3⟩,
        Slot.zero, Slot.zero, Slot.zero, Slot.zero, Slot.zero]) := by decide +kernel

/-- V-E12: the ten odd entries e1 to e19 are in range, scattered among others; the first eight of them,
by index, fill the slots. -/
theorem test_eval_scattered : (nextState? (exec (.eval .small .lower 10#32) scatteredState)).map
    (fun t => (t.out, t.slots.map (·.oamIdx))) =
    some (some 0x108#32, #v[1, 3, 5, 7, 9, 11, 13, 15]) := by decide +kernel

/-! ### Pattern fetch -/

/-- V-F1, attributes 0x43: horizontal flip and palette 3. -/
theorem test_fetch_hflip : outOf (exec (.fetch .large .lower 0#6 9#32) (fetchState 0x43 0)) =
    some 0xFECCDFED#32 := by decide
/-- V-F5: both flips, palette 3, table from the tile's bit 0. -/
theorem test_fetch_both_flips : outOf (exec (.fetch .large .lower 1#6 9#32) (fetchState 0 0xC3)) =
    some 0xDCCCCCCE#32 := by decide

/-! ### The step -/

/-- V-C1, with an old result on the port. -/
theorem test_nop : nextState? (exec .nop { shiftState with out := some 7#32 }) = some shiftState := by
  decide
/-- R70: no input at all is a NOP. -/
theorem test_step_idle : nextState? (step shiftState) = some shiftState := by decide
/-- R56, R59: a host write is done before the command of its step. -/
theorem test_step_sees_host_write :
    (nextState? (step (withInput State.reset ⟨[.writeOam 2 0x43], false, some 3#64⟩))).map State.oam =
      some [(2, 0x43#8)] := by decide
/-- V-C7: reset wins over `SETHI 0xFFFFFFFF`. -/
theorem test_reset_wins :
    nextState? (step (withInput shiftState ⟨[], true, some 0xFFFFFFFF00000002#64⟩)) = some State.reset := by
  decide
/-- V-C2: a reserved word is refused, and the mark is set. -/
theorem test_reserved_refused :
    (refusedWith? (step (withInput shiftState ⟨[], false, some 9#64⟩))).map
      (fun t => (t.refused, t.high32)) = some (true, 0x12345678#32) := by decide
/-- V-C8: the mark survives reset. -/
theorem test_mark_survives_reset :
    (refusedWith? (step { withInput shiftState ⟨[], true, none⟩ with refused := true })).map
      (fun t => (t.refused, t.high32)) = some (true, 0#32) := by decide
/-- The host's own question: the first step after reset runs the word placed (`FETCH.16 T0, 3, 9`, R86). -/
theorem test_first_step_runs_placed_word :
    step (State.reset.withFetchWord 64 0x0000000900030018) = exec (.fetch .large .lower 3#6 9#32)
      State.reset ∧
    decodeTableWord 64 0x0000000900030018 = some (.fetch .large .lower 3#6 9#32) := ⟨rfl, by decide⟩

/-! ### Witnesses: states and operands that meet a statement's hypotheses -/

/-- One word for each clause of the opcode map. -/
theorem test_witness_opcode_map :
    0x0#64 &&& 0xFFFFFFFFFFFFFFFF#64 = 0x0#64 ∧
    0xFFFFFFFF00000001#64 &&& 0x00000000FFFFFFFF#64 = 0x1#64 ∧
    0xFFFFFFFF00000002#64 &&& 0x00000000FFFFFFFF#64 = 0x2#64 ∧
    0x3#64 &&& 0xFFFFFFFFFFFFFFFF#64 = 0x3#64 ∧ 0xFF04#64 &&& 0xFFFFFFFFFFFF00FF#64 = 0x4#64 ∧
    0x5#64 &&& 0xFFFFFFFFFFFFFFFF#64 = 0x5#64 ∧ 0x6#64 &&& 0xFFFFFFFFFFFFFFFF#64 = 0x6#64 ∧
    0xFFFFFFFF00000037#64 &&& 0x00000000FFFFFFCF#64 = 0x7#64 ∧
    0xFFFFFFFF003F0038#64 &&& 0x00000000FFC0FFCF#64 = 0x8#64 ∧
    (∀ r ∈ opcodeRows, 0x9#64 &&& r.mask ≠ r.pattern) ∧
    ∃ r ∈ opcodeRows, 0x3#64 &&& r.mask = r.pattern := by decide

/-- EncodeOfDecode. -/
theorem test_witness_encode_of_decode :
    decode 0xFFFFFFFF003F0038#64 = .command (.fetch .large .upper 63#6 0xFFFFFFFF#32) := by decide

/-- AssemblerForms and PseudoCommandsExpand, at the edges. -/
theorem test_witness_assembler :
    0xFFFFFFFF < 0x100000000 ∧ 255 < 256 ∧ 63 < 64 ∧ (1 ≤ 1 ∧ 1 ≤ 8) ∧ (1 ≤ 8 ∧ 8 ≤ 8) ∧
    (0 = 0 ∨ 8 < 0) ∧ (9 = 0 ∨ 8 < 9) := by decide

/-- GetpixReadsColumn and GetpixOutOfRangeDraws, where they meet. -/
theorem test_witness_fine_x : (0#8).toNat ≤ 7 ∧ (7#8).toNat ≤ 7 ∧ 8 ≤ (8#8).toNat ∧ 8 ≤ (255#8).toNat := by
  decide

/-- ConsecutiveShifts and PixelAfterShifts. -/
theorem test_witness_shift_counts : 0 ≤ 8 ∧ 8 ≤ 8 ∧ 16 ≤ 16 ∧ (7#8).toNat ≤ 7 := by decide

/-- WindowMovesOncePerShift. -/
theorem test_witness_no_reload :
    ∀ i ∈ [Instr.shl4, .getpix 3#8, .eval .small .lower 12#32, .shl4, .nop], isReload i = false := by decide

/-- KeptCadenceReloadsOnTileBoundary: eight shifts among other commands between two reloads, the first of
them in either order. -/
theorem test_witness_cadence :
    (∀ i ∈ List.replicate 8 Instr.shl4 ++ [.gethi, .nop], isReload i = false) ∧ isReload (.setlo 5#32) = true ∧
    Instr.shl4 ∈ List.replicate 8 Instr.shl4 ++ [.gethi, .nop] ∧
    ∀ load ∈ [[Instr.sethi 1#32, .setlo 2#32], [.setlo 2#32, .sethi 1#32]],
      cadenceKept none (load ++ (List.replicate 8 .shl4 ++ [.gethi, .nop]) ++ [.setlo 5#32]) = true := by decide

/-- A host that shifts seven times only does not keep the cadence (R240). -/
theorem test_cadence_refuses_seven :
    cadenceKept none ([.sethi 1#32, .setlo 2#32] ++ List.replicate 7 .shl4 ++ [.setlo 5#32]) = false := by
  decide

/-- ShifterReadsAndWritesItsRegisters: two states that agree in the shifter and differ elsewhere. -/
theorem test_witness_shifter : isShifter (.getpix 7#8) = true ∧
    { shiftState with oam := [(0, 1)], spriteCount := 3#8 }.high32 = shiftState.high32 ∧
    { shiftState with oam := [(0, 1)], spriteCount := 3#8 }.low32 = shiftState.low32 ∧
    drawsNothing (.getpix 7#8) = true := by decide

/-- RangeCheckIsUnsigned, EvalKeepsFirstEight and EvalLaws: the entries in range of P2 at scanline 12, and
a state with the same Y bytes and other bytes elsewhere. -/
theorem test_witness_eval : (p2State.memReadOam (4#8 * (0#6).setWidth 8)).toNat = 10 ∧
    8 = (if SpriteSize.small = .large then 16 else 8) ∧
    (List.range 64).filter (fun i => decide
      ((12 + 2 ^ 32 - (p2State.memReadOam (BitVec.ofNat 8 (4 * i))).toNat) % 2 ^ 32 < 8)) = [0, 1, 3] ∧
    ∀ i < 64, p2OtherState.memReadOam (BitVec.ofNat 8 (4 * i)) =
      p2State.memReadOam (BitVec.ofNat 8 (4 * i)) := by
  decide +kernel

/-- EvalIgnoresOldEvaluation: two states with the same memories and other registers and slots. -/
theorem test_witness_old_evaluation :
    (∀ a, { p2State with overflow := true, spriteCount := 8#8, high32 := 1#32 }.memReadOam a =
      p2State.memReadOam a) ∧
    (∀ a, { p2State with overflow := true, spriteCount := 8#8, high32 := 1#32 }.memReadPat a =
      p2State.memReadPat a) := ⟨fun _ => rfl, fun _ => rfl⟩

/-- EvalPastVisibleLines: scanline 271, and an entry with Y = 0xF0. -/
theorem test_witness_past_lines : 271 ≤ (271#32).toNat ∧
    ({ State.reset with oam := oamOf [⟨0xF0, 0, 1, 9⟩] }.oamEntry 0#6).y = 0xF0#8 := by decide

/-- FetchDecodesRow: V-F5, with both flips in large mode, tile 0x43 and row 9. -/
theorem test_witness_fetch : 16 = (if SpriteSize.large = .large then 16 else 8) ∧ (9#32).toNat < 16 ∧
    (fetchState 0 0xC3).memReadOam (BitVec.ofNat 8 (4 * (1#6).toNat + 2)) = 0xC3#8 ∧
    ((fetchState 0 0xC3).memReadOam (BitVec.ofNat 8 (4 * (1#6).toNat + 1))).toNat = 0x43 ∧
    (0xC3#8).getLsbD 7 = true ∧ 16 - 1 - (9#32).toNat = 6 ∧ (0x43 % 2) * 0x1000 = 0x1000 ∧
    (0x43 - 0x43 % 2) * 16 + (6 / 8) * 16 + 6 % 8 = 0x426 ∧
    (fetchState 0 0xC3).memReadPat (BitVec.ofNat 16 (0x1000 + 0x426)) = 0x01#8 ∧
    (fetchState 0 0xC3).memReadPat (BitVec.ofNat 16 (0x1000 + 0x426 + 8)) = 0x80#8 := by decide

/-- FetchDecodesRow's two clauses, FetchOutOfRangeDraws and PatternAddressesInTables: the last row inside
and the first row outside, in both modes. -/
theorem test_witness_rows : 7#32 < spriteHeight .small ∧ 15#32 < spriteHeight .large ∧
    8 ≤ (8#32).toNat ∧ 16 ≤ (16#32).toNat := by decide

/-- FlipsMirror: the entries of V-F1 with the flip bits clear, and with each set. -/
theorem test_witness_flips : 7#32 < spriteHeight .small ∧
    (∀ a, (fetchState 0x43 0).memReadPat a = (fetchState 0x03 0).memReadPat a) ∧
    ((fetchState 0x43 0).oamEntry 0#6).tile = ((fetchState 0x03 0).oamEntry 0#6).tile ∧
    ((fetchState 0x03 0).oamEntry 0#6).attr.getLsbD 6 = false ∧
    ((fetchState 0x43 0).oamEntry 0#6).attr = ((fetchState 0x03 0).oamEntry 0#6).attr ||| 0x40#8 ∧
    ((fetchState 0x03 0).oamEntry 0#6).attr.getLsbD 7 = false ∧
    ((fetchState 0x83 0).oamEntry 0#6).attr = ((fetchState 0x03 0).oamEntry 0#6).attr ||| 0x80#8 :=
  ⟨by decide, fun _ => rfl, by decide⟩

/-- A byte of a uniform memory. -/
theorem read_uniformMemory (n : Nat) (v : Byte) (a : Nat) (h : a < n) :
    Memory.read (uniformMemory n v) a = some v := by
  suffices ∀ l : List Nat, a ∈ l → Memory.read (l.map fun b => (b, v)) a = some v from
    this _ (List.mem_range.mpr h)
  intro l
  induction l with
  | nil => simp
  | cons b l ih =>
    intro hm
    by_cases hab : a = b
    · simp [Memory.read, hab]
    · simpa [Memory.read, hab] using ih (by simpa [hab] using hm)

/-- UniformPatternMemory: V-F9, pattern memory all 0x00 and all 0xFF. -/
theorem test_witness_uniform : 7#32 < spriteHeight .small ∧
    (∀ a, { State.reset with pat := uniformMemory 65536 0x00 }.memReadPat a = 0x00#8) ∧
    (∀ a, { State.reset with pat := uniformMemory 65536 0xFF }.memReadPat a = 0xFF#8) := by
  refine ⟨by decide, fun a => ?_, fun a => ?_⟩ <;>
    simp [State.memReadPat, Memory.readByte, read_uniformMemory 65536 _ a.toNat a.isLt]

/-- FetchReadsTileAndFourAttributeBits: V-F11 and V-F12, attribute bits 5 to 2 set and other Y and X. -/
theorem test_witness_four_bits :
    (∀ a, { State.reset with oam := oamOf [⟨0x77, 1, 0x3C, 0x99⟩] }.memReadPat a =
      { State.reset with oam := oamOf [⟨0, 1, 0, 0⟩] }.memReadPat a) ∧
    { State.reset with oam := oamOf [⟨0x77, 1, 0x3C, 0x99⟩] }.memReadOam 1#8 =
      { State.reset with oam := oamOf [⟨0, 1, 0, 0⟩] }.memReadOam 1#8 ∧
    { State.reset with oam := oamOf [⟨0x77, 1, 0x3C, 0x99⟩] }.memReadOam 2#8 &&& 0b11000011#8 =
      { State.reset with oam := oamOf [⟨0, 1, 0, 0⟩] }.memReadOam 2#8 &&& 0b11000011#8 :=
  ⟨fun _ => rfl, by decide⟩

/-- WritesFollowAccessTable, ResultPortFollowsOpcodeMap and OnlyOutOfRangeOperandsDraw: a command that goes on. -/
theorem test_witness_command_goes_on : (nextState? (exec .gethi shiftState)).isSome = true ∧
    (∀ v, Instr.gethi ≠ .sethi v) ∧ (∀ v, Instr.gethi ≠ .setlo v) ∧ Instr.gethi ≠ .shl4 ∧
    isEval .gethi = false := by
  refine ⟨by decide, ?_, ?_, by decide, by decide⟩ <;> intro v h <;> cases h

/-- StepRunsDecodedCommand and EvaluationHeldBetweenEvals: SHL4 issued, with no action and no reset. -/
theorem test_witness_step : (withInput shiftState ⟨[], false, some 3#64⟩).refused = false ∧
    (withInput shiftState ⟨[], false, some 3#64⟩).nextInput.reset = false ∧
    (withInput shiftState ⟨[], false, some 3#64⟩).nextInput.cmd = some 3#64 ∧
    decode 3#64 = .command .shl4 ∧ isEval .shl4 = false ∧
    (withInput shiftState ⟨[], false, some 3#64⟩).nextInput.actions = [] ∧
    (nextState? (step (withInput shiftState ⟨[], false, some 3#64⟩))).isSome = true := by decide

/-- NoCommandIsNop; ResetWinsOverCommand, ResetStateValues and ResetDiscardsReservedWord, with a valid and
with a reserved word; ReservedWordIsRefused. -/
theorem test_witness_inputs : shiftState.refused = false ∧
    shiftState.nextInput.cmd = none ∧ shiftState.nextInput.reset = false ∧
    (withInput shiftState ⟨[], true, some 0xFFFFFFFF00000002#64⟩).refused = false ∧
    (withInput shiftState ⟨[], true, some 0xFFFFFFFF00000002#64⟩).nextInput.reset = true ∧
    (withInput shiftState ⟨[], true, some 0xFFFFFFFF00000002#64⟩).nextInput.cmd =
      some 0xFFFFFFFF00000002#64 ∧
    reservedWord 0xFFFFFFFF00000002#64 = false ∧
    (withInput shiftState ⟨[], true, some 0xFFFFFFFF00000002#64⟩).nextInput.actions = [] ∧
    (withInput shiftState ⟨[], true, some 9#64⟩).refused = false ∧
    (withInput shiftState ⟨[], true, some 9#64⟩).nextInput.reset = true ∧
    (withInput shiftState ⟨[], true, some 9#64⟩).nextInput.cmd = some 9#64 ∧
    (withInput shiftState ⟨[], false, some 9#64⟩).refused = false ∧
    (withInput shiftState ⟨[], false, some 9#64⟩).nextInput.reset = false ∧
    (withInput shiftState ⟨[], false, some 9#64⟩).nextInput.cmd = some 9#64 ∧
    reservedWord 9#64 = true ∧ decode 9#64 = .reserved 9#64 := by decide

/-- RefusedMarkIsNeverCleared: a marked state whose host asserts reset. -/
theorem test_witness_marked :
    { withInput shiftState ⟨[], true, none⟩ with refused := true }.refused = true ∧
    { withInput shiftState ⟨[], true, none⟩ with refused := true }.nextInput.reset = true := by decide

/-- HostWritesAreSeen: a write among others, not followed by another to its address. -/
theorem test_witness_host_writes :
    (withInput State.reset ⟨[.writeOam 2 1, .writeOam 2 0x43, .writePat 2 9], false, none⟩).nextInput.actions =
      [.writeOam 2 1] ++ [.writeOam 2 0x43] ++ [.writePat 2 9] ∧
    (∀ u, HostAction.writeOam 2 u ∉ [HostAction.writePat 2 9]) ∧
    (∀ u, HostAction.writePat 2 u ∉ ([] : List HostAction)) ∧
    (∀ u, HostAction.writeOam 3 u ∉ [HostAction.writePat 2 9]) := by
  refine ⟨by decide, ?_, ?_, ?_⟩ <;> simp

/-- WrittenOamHidesPowerUp: all 256 bytes written. -/
theorem test_witness_oam_written :
    { State.reset with oam := uniformMemory 256 0xFF }.oamWritten = true := by decide +kernel

/-- InvariantKeptByStep: a state with one filled slot, listed memories and a step that goes on. -/
theorem test_witness_invariant :
    { State.reset with spriteCount := 1#8, slots := #v[⟨1, 2, true, 9⟩, Slot.zero, Slot.zero, Slot.zero,
      Slot.zero, Slot.zero, Slot.zero, Slot.zero], oam := [(3, 1), (255, 2)], pat := [(65535, 0)] }.Inv :=
  ⟨by decide, by decide, by decide, by decide, by decide, by decide⟩

/-- LegalRunNeverStops: an unmarked state with two legal inputs. -/
theorem test_witness_legal_run :
    { shiftState with inputs := [⟨[], false, some 3#64⟩, ⟨[.writeOam 0 1], true, none⟩] }.refused = false ∧
    ∀ inp ∈ { shiftState with inputs := [⟨[], false, some 3#64⟩, ⟨[.writeOam 0 1], true, none⟩] }.inputs,
      inp.legal = true := by decide

end Sys2Proof.Machine.Tests
end

section
/-!
What each command does, one equation per arm of `exec` (two where its operand decides), and the two
statements of 00_scope.md that follow: which command has a result (R12) and which draws a value (R14).
-/
namespace Sys2Proof.Machine

/-! ### Draws, in terms of the updates of Laws/State -/

@[simp] theorem State.drawNibbleResult_eq (s : State) :
    s.drawNibbleResult = (s.result ((Config.drawNibble s.draws).setWidth 32)).drawn := rfl

@[simp] theorem State.drawRowResult_eq (s : State) :
    s.drawRowResult = (s.result (Config.drawRow s.draws)).drawn := rfl

/-! ### One equation per command -/

@[simp] theorem exec_nop (s : State) : exec .nop s = .next s.noResult := rfl

@[simp] theorem exec_setlo (imm : U32) (s : State) :
    exec (.setlo imm) s = .next (s.setLow32 imm).noResult := rfl

@[simp] theorem exec_sethi (imm : U32) (s : State) :
    exec (.sethi imm) s = .next (s.setHigh32 imm).noResult := rfl

@[simp] theorem exec_shl4 (s : State) :
    exec .shl4 s =
      .next ((s.setHigh32 (shiftedHigh s.high32 s.low32)).setLow32 (shiftedLow s.low32)).noResult := rfl

@[simp] theorem exec_gethi (s : State) : exec .gethi s = .next (s.result s.high32) := rfl

@[simp] theorem exec_getlo (s : State) : exec .getlo s = .next (s.result s.low32) := rfl

@[simp] theorem exec_eval (size : SpriteSize) (table : TableSelect) (scanline : U32) (s : State) :
    exec (.eval size table scanline) s =
      .next ((s.setEvaluation (s.scan size table scanline).slots
          (spriteCountOf (s.scan size table scanline).count)
          (overflowOf (s.scan size table scanline).count)).result
        (evalWord (spriteCountOf (s.scan size table scanline).count)
          (overflowOf (s.scan size table scanline).count))) := rfl

/-- GETPIX of a column of HIGH32 (40_bg_shifter.md R106). -/
theorem exec_getpix_of_le {fx : Byte} (hfx : fx.toNat ≤ 7) (s : State) :
    exec (.getpix fx) s = .next (s.result ((pixelColumn s.high32 fx.toNat).setWidth 32)) :=
  if_pos hfx

/-- GETPIX beyond the last column draws its result (R107). -/
theorem exec_getpix_of_not_le {fx : Byte} (hfx : ¬ fx.toNat ≤ 7) (s : State) :
    exec (.getpix fx) s = .next s.drawNibbleResult :=
  if_neg hfx

/-- FETCH of a row of the sprite (42_pattern_fetch.md R160). -/
theorem exec_fetch_of_lt {size : SpriteSize} {row : U32} (hrow : row < spriteHeight size)
    (table : TableSelect) (idx : BitVec 6) (s : State) :
    exec (.fetch size table idx row) s = .next (s.result (s.fetchRow idx row size table)) :=
  if_pos hrow

/-- FETCH beyond the last row draws its result (R168). -/
theorem exec_fetch_of_not_lt {size : SpriteSize} {row : U32} (hrow : ¬ row < spriteHeight size)
    (table : TableSelect) (idx : BitVec 6) (s : State) :
    exec (.fetch size table idx row) s = .next s.drawRowResult :=
  if_neg hrow

/-! ### What GETPIX and FETCH can end in -/

theorem exec_getpix_cases {fx : Byte} {s t : State} (h : exec (.getpix fx) s = .next t) :
    (fx.toNat ≤ 7 ∧ t = s.result ((pixelColumn s.high32 fx.toNat).setWidth 32)) ∨
      (¬ fx.toNat ≤ 7 ∧ t = s.drawNibbleResult) := by
  by_cases hfx : fx.toNat ≤ 7
  · rw [exec_getpix_of_le hfx] at h
    exact .inl ⟨hfx, (Host.Outcome.next.inj h).symm⟩
  · rw [exec_getpix_of_not_le hfx] at h
    exact .inr ⟨hfx, (Host.Outcome.next.inj h).symm⟩

theorem exec_fetch_cases {size : SpriteSize} {table : TableSelect} {idx : BitVec 6} {row : U32}
    {s t : State} (h : exec (.fetch size table idx row) s = .next t) :
    (row < spriteHeight size ∧ t = s.result (s.fetchRow idx row size table)) ∨
      (¬ row < spriteHeight size ∧ t = s.drawRowResult) := by
  by_cases hrow : row < spriteHeight size
  · rw [exec_fetch_of_lt hrow] at h
    exact .inl ⟨hrow, (Host.Outcome.next.inj h).symm⟩
  · rw [exec_fetch_of_not_lt hrow] at h
    exact .inr ⟨hrow, (Host.Outcome.next.inj h).symm⟩

/-! ### The statements -/

/-- Settles O34: each command ends in `noResult` or in `result`, by cases on the command. -/
theorem resultPortFollowsOpcodeMap : Obligations.ResultPortFollowsOpcodeMap := by
  intro i s t h
  cases i with
  | nop | setlo imm | sethi imm | shl4 =>
    simp only [exec_nop, exec_setlo, exec_sethi, exec_shl4, Host.Outcome.next.injEq] at h
    simp [← h]
  | gethi | getlo | eval size table scanline =>
    simp only [exec_gethi, exec_getlo, exec_eval, Host.Outcome.next.injEq] at h
    simp [← h]
  | getpix fx => obtain ⟨-, rfl⟩ | ⟨-, rfl⟩ := exec_getpix_cases h <;> simp
  | fetch size table idx row => obtain ⟨-, rfl⟩ | ⟨-, rfl⟩ := exec_fetch_cases h <;> simp

/-- Settles O35: only the second case of GETPIX and of FETCH goes through `drawn`. -/
theorem onlyOutOfRangeOperandsDraw : Obligations.OnlyOutOfRangeOperandsDraw := by
  intro i s t h
  cases i with
  | nop | setlo imm | sethi imm | shl4 | gethi | getlo | eval size table scanline =>
    simp only [exec_nop, exec_setlo, exec_sethi, exec_shl4, exec_gethi, exec_getlo, exec_eval,
      Host.Outcome.next.injEq] at h
    simp [← h, drawsNothing]
  | getpix fx =>
    obtain ⟨hfx, rfl⟩ | ⟨hfx, rfl⟩ := exec_getpix_cases h <;> simp [drawsNothing, hfx]
  | fetch size table idx row =>
    obtain ⟨hrow, rfl⟩ | ⟨hrow, rfl⟩ := exec_fetch_cases h <;> simp [drawsNothing, hrow]

end Sys2Proof.Machine
end

section
/-!
What a command can do to the state, said once for all commands, and the two statements that read it off:
which command writes which state (10_state.md R40), and how the window moves (R23, R104).
-/
namespace Sys2Proof.Machine

/-- The effects a command can have: the four commands that write state of the core, one constructor each, and
all the others, which write `out` and the model's count of draws only. -/
inductive ExecEffect (s : State) : Instr → State → Prop
  | setlo (v : U32) : ExecEffect s (.setlo v) (s.setLow32 v).noResult
  | sethi (v : U32) : ExecEffect s (.sethi v) (s.setHigh32 v).noResult
  | shl4 : ExecEffect s .shl4
      ((s.setHigh32 (shiftedHigh s.high32 s.low32)).setLow32 (shiftedLow s.low32)).noResult
  | eval (size : SpriteSize) (table : TableSelect) (scanline out : U32) :
      ExecEffect s (.eval size table scanline)
        ((s.setEvaluation (s.scan size table scanline).slots
          (spriteCountOf (s.scan size table scanline).count)
          (overflowOf (s.scan size table scanline).count)).result out)
  | other {i : Instr} (hreload : isReload i = false) (hshl4 : i ≠ .shl4) (heval : isEval i = false)
      (out : Option U32) (draws : Nat) : ExecEffect s i { s with out := out, draws := draws }

/-- Every command completes, with one of these effects. -/
theorem exec_effect (i : Instr) (s : State) : ∃ t, exec i s = .next t ∧ ExecEffect s i t := by
  cases i with
  | nop => exact ⟨_, exec_nop s, .other rfl (by nofun) rfl none s.draws⟩
  | setlo v => exact ⟨_, exec_setlo v s, .setlo v⟩
  | sethi v => exact ⟨_, exec_sethi v s, .sethi v⟩
  | shl4 => exact ⟨_, exec_shl4 s, .shl4⟩
  | getpix fx =>
    by_cases hfx : fx.toNat ≤ 7
    · exact ⟨_, exec_getpix_of_le hfx s, .other rfl (by nofun) rfl (some _) s.draws⟩
    · exact ⟨_, exec_getpix_of_not_le hfx s, .other rfl (by nofun) rfl (some _) (s.draws + 1)⟩
  | gethi => exact ⟨_, exec_gethi s, .other rfl (by nofun) rfl (some _) s.draws⟩
  | getlo => exact ⟨_, exec_getlo s, .other rfl (by nofun) rfl (some _) s.draws⟩
  | eval size table scanline =>
    exact ⟨_, exec_eval size table scanline s, .eval size table scanline _⟩
  | fetch size table idx row =>
    by_cases hrow : row < spriteHeight size
    · exact ⟨_, exec_fetch_of_lt hrow table idx s, .other rfl (by nofun) rfl (some _) s.draws⟩
    · exact ⟨_, exec_fetch_of_not_lt hrow table idx s, .other rfl (by nofun) rfl (some _) (s.draws + 1)⟩

theorem effect_of_exec {i : Instr} {s t : State} (h : exec i s = .next t) : ExecEffect s i t := by
  obtain ⟨u, hu, heffect⟩ := exec_effect i s
  obtain rfl : u = t := Host.Outcome.next.inj (hu.symm.trans h)
  exact heffect

/-- No command writes a memory, the mark REFUSED or the host's inputs. -/
theorem ExecEffect.keeps {i : Instr} {s t : State} (h : ExecEffect s i t) :
    t.oam = s.oam ∧ t.pat = s.pat ∧ t.refused = s.refused ∧ t.inputs = s.inputs := by
  cases h <;> exact ⟨rfl, rfl, rfl, rfl⟩

/-- SHL4 moves the window left by one pixel (R104): bit by bit, the two sides differ in how they index only. -/
theorem shiftedHigh_append_shiftedLow (high low : U32) :
    shiftedHigh high low ++ shiftedLow low = (high ++ low) <<< 4 := by
  apply BitVec.eq_of_getLsbD_eq
  intro j hj
  simp only [shiftedHigh, shiftedLow, BitVec.getLsbD_append, BitVec.getLsbD_shiftLeft,
    BitVec.getLsbD_extractLsb', BitVec.getLsbD_zero]
  grind

/-- What a command that loads no shifter register does to the window. -/
theorem ExecEffect.window {i : Instr} {s t : State} (h : ExecEffect s i t) (hi : isReload i = false) :
    t.window = s.window <<< (if i = .shl4 then 4 else 0) := by
  cases h with
  | setlo v | sethi v => cases hi
  | shl4 => exact shiftedHigh_append_shiftedLow s.high32 s.low32
  | eval size table scanline out => simp [State.window]
  | other _ hshl4 => simp [hshl4, State.window]

theorem runCommands_cons {i : Instr} {s t : State} (h : exec i s = .next t) (is : List Instr) :
    runCommands (i :: is) s = runCommands is t := by
  rw [runCommands, h]

theorem shiftCount_cons (i : Instr) (is : List Instr) :
    shiftCount (i :: is) = (if i = .shl4 then 1 else 0) + shiftCount is := by
  simp [shiftCount, List.countP_cons, Nat.add_comm]

/-- A run without reloads completes with the window moved once for each SHL4. -/
theorem runCommands_window (is : List Instr) (s : State) (h : ∀ i ∈ is, isReload i = false) :
    ∃ t, runCommands is s = .next t ∧ t.window = s.window <<< (4 * shiftCount is) := by
  induction is generalizing s with
  | nil => exact ⟨s, rfl, by simp [shiftCount]⟩
  | cons i is ih =>
    obtain ⟨hi, his⟩ := List.forall_mem_cons.mp h
    obtain ⟨u, hu, heffect⟩ := exec_effect i s
    obtain ⟨t, ht, hwindow⟩ := ih u his
    refine ⟨t, (runCommands_cons hu is).trans ht, ?_⟩
    rw [hwindow, heffect.window hi, ← BitVec.shiftLeft_add, shiftCount_cons]
    congr 1
    split <;> omega

/-- Settles O18: the window is `high32 ++ low32`, and its course over a run is an induction over the list. -/
theorem windowMovesOncePerShift : Obligations.WindowMovesOncePerShift := runCommands_window

/-- Settles O33: each clause is read off the effect of the command. -/
theorem writesFollowAccessTable : Obligations.WritesFollowAccessTable := by
  intro i s t h
  have heffect := effect_of_exec h
  obtain ⟨hoam, hpat, -, -⟩ := heffect.keeps
  refine ⟨fun hsethi hshl4 => ?_, fun hsetlo hshl4 => ?_, fun heval => ?_,
    fun a => by rw [State.memReadOam, hoam, State.memReadOam],
    fun a => by rw [State.memReadPat, hpat, State.memReadPat]⟩
  · cases heffect with
    | sethi v => exact absurd rfl (hsethi v)
    | shl4 => exact absurd rfl hshl4
    | setlo | eval | other => rfl
  · cases heffect with
    | setlo v => exact absurd rfl (hsetlo v)
    | shl4 => exact absurd rfl hshl4
    | sethi | eval | other => rfl
  · cases heffect with
    | eval => cases heval
    | setlo | sethi | shl4 | other => exact ⟨rfl, rfl, rfl⟩

end Sys2Proof.Machine
end

section
/-!
The invariant of the state (10_state.md R41): reset establishes it, EVAL establishes it anew, and everything
else leaves what it speaks of as it was, or writes a memory in canonical form.
-/
namespace Sys2Proof.Machine

/-! ### Reset -/

theorem State.applyReset_slot (s : State) (k : Fin 8) : s.applyReset.slots[k] = Slot.zero := by
  simp

theorem State.inv_applyReset (s : State) (ho : Memory.wf 256 s.oam = true)
    (hp : Memory.wf 65536 s.pat = true) : s.applyReset.Inv where
  count_le := by simp
  overflow_full := by simp
  unfilled_zero k _ := s.applyReset_slot k
  oamIdx_rises := by simp
  oam_wf := ho
  pat_wf := hp

/-! ### What does not touch the evaluation -/

/-- The invariant speaks of the evaluation and of the form of the memories only. -/
theorem State.Inv.congr {s t : State} (h : s.Inv) (hslots : t.slots = s.slots)
    (hcount : t.spriteCount = s.spriteCount) (hoverflow : t.overflow = s.overflow)
    (ho : Memory.wf 256 t.oam = true) (hp : Memory.wf 65536 t.pat = true) : t.Inv where
  count_le := hcount ▸ h.count_le
  overflow_full := by rw [hoverflow, hcount]; exact h.overflow_full
  unfilled_zero := by rw [hslots, hcount]; exact h.unfilled_zero
  oamIdx_rises := by rw [hslots, hcount]; exact h.oamIdx_rises
  oam_wf := ho
  pat_wf := hp

theorem State.Inv.beginStep {s : State} (h : s.Inv) : s.beginStep.Inv :=
  have ⟨ho, hp⟩ := s.beginStep_wf h.oam_wf h.pat_wf
  h.congr s.beginStep_slots s.beginStep_spriteCount s.beginStep_overflow ho hp

/-! ### EVAL -/

theorem spriteCountOf_toNat (n : Nat) : (spriteCountOf n).toNat = min n 8 := by
  unfold spriteCountOf
  split
  · simp; omega
  · simp; omega

theorem spriteCountOf_of_overflow {n : Nat} (h : overflowOf n = true) : spriteCountOf n = 8#8 :=
  if_pos (of_decide_eq_true h)

/-- The scan visits the OAM entries in ascending order (41_sprite_eval.md R132). -/
theorem oamEntries_ascending : oamEntries.Pairwise (· < ·) := by
  rw [oamEntries, List.pairwise_map]
  refine List.pairwise_lt_range.imp_of_mem fun {j k} _ hk hjk => ?_
  have hk64 : k < 64 := List.mem_range.mp hk
  rw [BitVec.lt_def, BitVec.toNat_ofNat, BitVec.toNat_ofNat]
  omega

variable (s : State) (size : SpriteSize) (table : TableSelect) (scanline : U32)

/-- A slot beyond the last entry in range is all zero (R135). -/
theorem State.scan_slot_unfilled (k : Fin 8)
    (hk : (spriteCountOf (s.scan size table scanline).count).toNat ≤ k.val) :
    (s.scan size table scanline).slots[k] = Slot.zero := by
  obtain ⟨hcount, hslots⟩ := s.scan_eq size table scanline
  rw [spriteCountOf_toNat, hcount] at hk
  have hnone : (oamEntries.filter (s.inRange size scanline))[k.val]? = none :=
    List.getElem?_eq_none (by omega)
  rw [Fin.getElem_fin, hslots k k.isLt, hnone, Option.elim_none]

/-- A filled slot holds the number of the entry in range it was filled from (R133). -/
theorem State.scan_slot_oamIdx (k : Fin 8)
    (hk : k.val < (oamEntries.filter (s.inRange size scanline)).length) :
    (s.scan size table scanline).slots[k].oamIdx = (oamEntries.filter (s.inRange size scanline))[k.val] := by
  obtain ⟨-, hslots⟩ := s.scan_eq size table scanline
  rw [Fin.getElem_fin, hslots k k.isLt, List.getElem?_eq_getElem hk]
  rfl

/-- The entry numbers of the filled slots rise (R41.4). -/
theorem State.scan_oamIdx_rises (j k : Fin 8) (hjk : j.val < k.val)
    (hk : k.val < (spriteCountOf (s.scan size table scanline).count).toNat) :
    (s.scan size table scanline).slots[j].oamIdx < (s.scan size table scanline).slots[k].oamIdx := by
  obtain ⟨hcount, -⟩ := s.scan_eq size table scanline
  rw [spriteCountOf_toNat, hcount] at hk
  rw [s.scan_slot_oamIdx size table scanline j (by omega),
    s.scan_slot_oamIdx size table scanline k (by omega)]
  exact List.pairwise_iff_getElem.mp (oamEntries_ascending.filter _) j k _ _ hjk

/-- EVAL meets the invariant whatever evaluation stood before it. -/
theorem State.inv_setEvaluation_scan (out : U32) (ho : Memory.wf 256 s.oam = true)
    (hp : Memory.wf 65536 s.pat = true) :
    ((s.setEvaluation (s.scan size table scanline).slots
      (spriteCountOf (s.scan size table scanline).count)
      (overflowOf (s.scan size table scanline).count)).result out).Inv where
  count_le := (spriteCountOf_toNat _).trans_le (Nat.min_le_right _ _)
  overflow_full := spriteCountOf_of_overflow
  unfilled_zero := s.scan_slot_unfilled size table scanline
  oamIdx_rises := s.scan_oamIdx_rises size table scanline
  oam_wf := ho
  pat_wf := hp

/-! ### Commands -/

variable {s}

theorem ExecEffect.inv {i : Instr} {t : State} (h : ExecEffect s i t) (hs : s.Inv) : t.Inv := by
  cases h with
  | eval size table scanline out =>
    exact s.inv_setEvaluation_scan size table scanline out hs.oam_wf hs.pat_wf
  | setlo | sethi | shl4 | other => exact hs.congr rfl rfl rfl hs.oam_wf hs.pat_wf

end Sys2Proof.Machine

namespace Sys2Proof.Machine

/-- Settles O45: the state at power-on is the reset of itself, with no byte listed. -/
theorem invariantAtReset : Obligations.InvariantAtReset :=
  State.reset.inv_applyReset (Memory.wf_nil 256) (Memory.wf_nil 65536)

/-- Settles O46: the host's actions keep the invariant, and so do a reset and every command after them. -/
theorem invariantKeptByStep : Obligations.InvariantKeptByStep := by
  intro s t hs h
  have hbegin := hs.beginStep
  obtain ⟨-, ⟨-, rfl⟩ | ⟨-, i, hexec, -⟩⟩ := step_cases h
  · exact s.beginStep.inv_applyReset hbegin.oam_wf hbegin.pat_wf
  · exact (effect_of_exec hexec).inv hbegin

end Sys2Proof.Machine
end

section
/-!
The reserved words and the mark REFUSED (10_state.md R38, 43_control.md R191): no row of the opcode map selects
a word that R83 calls reserved, and a step that stops leaves the mark.
-/
namespace Sys2Proof

/-- Where a mask is all ones, a word that matches has the pattern's field. -/
theorem extractLsb'_eq_of_and_eq {w mask pattern : CmdWord} (h : w &&& mask = pattern) (start len : Nat)
    (hmask : mask.extractLsb' start len = BitVec.allOnes len) :
    w.extractLsb' start len = pattern.extractLsb' start len := by
  rw [← h, BitVec.extractLsb'_and, hmask, BitVec.and_allOnes]

theorem getLsbD_eq_of_and_eq {w mask pattern : CmdWord} (h : w &&& mask = pattern) (i : Nat)
    (hmask : mask.getLsbD i = true) : w.getLsbD i = pattern.getLsbD i := by
  rw [← h, BitVec.getLsbD_and, hmask, Bool.and_true]

/-- A row's mask covers OP, the reserved bits and every field its opcode does not use, and its pattern is no
reserved word (30_encoding.md R77, R78, R80, R81). -/
def OpcodeRow.PinsUnused (r : OpcodeRow) : Prop :=
  fieldOp r.mask = 0xF#4 ∧ fieldRes0 r.mask = 0x3#2 ∧ fieldRes1 r.mask = 0x3FF#10 ∧
  (opUsesLT (fieldOp r.pattern) = true ∨ r.mask.getLsbD 4 = true ∧ r.mask.getLsbD 5 = true) ∧
  (opUsesFx (fieldOp r.pattern) = true ∨ fieldFx r.mask = 0xFF#8) ∧
  (opUsesIdx (fieldOp r.pattern) = true ∨ fieldIdx r.mask = 0x3F#6) ∧
  (opUsesImm (fieldOp r.pattern) = true ∨ fieldImm r.mask = 0xFFFFFFFF#32) ∧
  reservedWord r.pattern = false

theorem opcodeRows_pinsUnused : ∀ r ∈ opcodeRows, r.PinsUnused := by
  unfold OpcodeRow.PinsUnused
  decide

/-- The check of an unused field gives the same for two words that agree in it. -/
theorem unusedCheck_congr {used a b : Bool} (h : used = true ∨ a = b) : (!used && a) = (!used && b) := by
  obtain rfl | rfl := h <;> rfl

/-- A word that such a row matches agrees with its pattern in everything R83 looks at. -/
theorem reservedWord_of_selects {r : OpcodeRow} {w : CmdWord} (hr : r.PinsUnused)
    (h : r.selects w = true) : reservedWord w = false := by
  obtain ⟨hop, hres0, hres1, hlt, hfx, hidx, himm, hpattern⟩ := hr
  have hand : w &&& r.mask = r.pattern := eq_of_beq h
  have op_eq : fieldOp w = fieldOp r.pattern := extractLsb'_eq_of_and_eq hand 0 4 hop
  have res0_eq : fieldRes0 w = fieldRes0 r.pattern := extractLsb'_eq_of_and_eq hand 6 2 hres0
  have res1_eq : fieldRes1 w = fieldRes1 r.pattern := extractLsb'_eq_of_and_eq hand 22 10 hres1
  have lt_eq := unusedCheck_congr (hlt.imp_right fun ⟨h4, h5⟩ =>
    congrArg₂ (· || ·) (getLsbD_eq_of_and_eq hand 4 h4) (getLsbD_eq_of_and_eq hand 5 h5))
  have fx_eq := unusedCheck_congr (hfx.imp_right fun hmask =>
    congrArg (· != 0#8) (extractLsb'_eq_of_and_eq hand 8 8 hmask))
  have idx_eq := unusedCheck_congr (hidx.imp_right fun hmask =>
    congrArg (· != 0#6) (extractLsb'_eq_of_and_eq hand 16 6 hmask))
  have imm_eq := unusedCheck_congr (himm.imp_right fun hmask =>
    congrArg (· != 0#32) (extractLsb'_eq_of_and_eq hand 32 32 hmask))
  have unused_eq : unusedFieldSet w = unusedFieldSet r.pattern := by
    rw [unusedFieldSet, op_eq]
    exact congrArg₂ (· || ·) (congrArg₂ (· || ·) (congrArg₂ (· || ·) lt_eq fx_eq) idx_eq) imm_eq
  rw [← hpattern, reservedWord, reservedWord, opReserved, opReserved, reservedBitSet, reservedBitSet,
    op_eq, res0_eq, res1_eq, unused_eq]

theorem reservedWord_of_decode_command {w : CmdWord} {i : Instr} (h : decode w = .command i) :
    reservedWord w = false := by
  unfold decode at h
  split at h
  · next r hr =>
    exact reservedWord_of_selects (opcodeRows_pinsUnused r (List.mem_of_find?_eq_some hr))
      (List.find?_some (p := fun r : OpcodeRow => r.selects w) hr)
  · cases h

theorem eq_of_decode_reserved {w r : CmdWord} (h : decode w = .reserved r) : r = w := by
  unfold decode at h
  split at h
  · cases h
  · exact (Decoded.reserved.inj h).symm

theorem decode_of_reservedWord {w : CmdWord} (h : reservedWord w = true) : decode w = .reserved w := by
  cases hd : decode w with
  | command i => rw [reservedWord_of_decode_command hd] at h; cases h
  | reserved r => rw [eq_of_decode_reserved hd]

end Sys2Proof

namespace Sys2Proof.Machine

/-! ### The step, branch by branch -/

section
variable {s : State}

theorem step_of_refused (h : s.refused = true) :
    step s = .refused (.refusedState
      (if s.nextInput.reset then s.beginStep.applyReset else s.beginStep.noResult)) :=
  if_pos h

theorem step_of_reset (h : s.refused = false) (hreset : s.nextInput.reset = true) :
    step s = .next s.beginStep.applyReset := by
  simp [step, cycle, h, hreset]

theorem step_of_command (h : s.refused = false) (hreset : s.nextInput.reset = false) :
    step s = commandStep s.beginStep s.nextInput.cmd := by
  simp [step, cycle, h, hreset]

theorem commandStep_of_decode_reserved {w r : CmdWord} (h : decode w = .reserved r) :
    commandStep s (some w) = .refused (.reservedCommand r s.markRefused) := by
  rw [commandStep, h]

/-- The only refusal of a command's step is that of a reserved word, for no command refuses. -/
theorem commandStep_refused {cmd : Option CmdWord} {r : Refusal} (h : commandStep s cmd = .refused r) :
    ∃ w, r = .reservedCommand w s.markRefused := by
  cases cmd with
  | none => cases h
  | some w =>
    cases hd : decode w with
    | command i =>
      obtain ⟨t, ht, -⟩ := exec_effect i s
      rw [commandStep, hd] at h
      exact nomatch ht.symm.trans h
    | reserved w' =>
      rw [commandStep_of_decode_reserved hd] at h
      exact ⟨w', (Host.Outcome.refused.inj h).symm⟩

/-- Why a step is refused: its state was marked, or its word is reserved. -/
theorem step_refused_cases {r : Refusal} (h : step s = .refused r) :
    r = .refusedState (if s.nextInput.reset then s.beginStep.applyReset else s.beginStep.noResult) ∧
        s.refused = true ∨
      ∃ w, r = .reservedCommand w s.beginStep.markRefused := by
  cases hs : s.refused with
  | true =>
    rw [step_of_refused hs] at h
    exact .inl ⟨(Host.Outcome.refused.inj h).symm, rfl⟩
  | false =>
    cases hreset : s.nextInput.reset with
    | true =>
      rw [step_of_reset hs hreset] at h
      cases h
    | false => exact .inr (commandStep_refused (step_of_command hs hreset ▸ h))

end

theorem State.refused_afterRefusal (s : State) (reset : Bool) :
    (if reset then s.applyReset else s.noResult).refused = s.refused := by
  cases reset <;> rfl

/-- Settles O42: the branches of the step give the first two clauses, what a refusal and what a step that
goes on can be give the others. -/
theorem refusedMarkIsNeverCleared : Obligations.RefusedMarkIsNeverCleared := by
  refine ⟨fun s w hs hreset hcmd hw => ?_, fun s hs => ?_, fun s r h => ?_, fun s t h => ?_⟩
  · rw [step_of_command hs hreset, hcmd, commandStep_of_decode_reserved (decode_of_reservedWord hw)]
    rfl
  · refine ⟨_, step_of_refused hs, ?_, fun hreset => ?_⟩
    · rw [State.refused_afterRefusal, State.beginStep_refused, hs]
    · rw [if_pos hreset]
      exact ⟨rfl, rfl, State.applyReset_slot _, rfl, rfl⟩
  · obtain ⟨rfl, hs⟩ | ⟨w, rfl⟩ := step_refused_cases h
    · exact ⟨_, by rw [State.refused_afterRefusal, State.beginStep_refused, hs], .inl rfl⟩
    · exact ⟨_, rfl, .inr ⟨w, rfl⟩⟩
  · obtain ⟨hs, ⟨-, rfl⟩ | ⟨-, i, hexec, -⟩⟩ := step_cases h
    · exact ⟨hs, by rw [State.applyReset_refused, State.beginStep_refused, hs]⟩
    · obtain ⟨-, -, hrefused, -⟩ := (effect_of_exec hexec).keeps
      exact ⟨hs, by rw [hrefused, State.beginStep_refused, hs]⟩

end Sys2Proof.Machine
end

section
/-!
What the state shows: the registers after reset (10_state.md R42, R43), the drawn OAM and the bytes that hide it
(R44), and the output ports (R37).
-/
namespace Sys2Proof.Machine

theorem State.applyReset_slot_fields (s : State) (k : Fin 8) :
    s.applyReset.slots[k].pattern = 0x00000000#32 ∧ s.applyReset.slots[k].posX = 0x00#8 ∧
      s.applyReset.slots[k].prio = false ∧ s.applyReset.slots[k].oamIdx = 0#6 := by
  rw [s.applyReset_slot k]
  exact ⟨rfl, rfl, rfl, rfl⟩

/-- Settles O40: the state at power-on is the reset of itself, and a step with reset asserted ends in
`applyReset`. -/
theorem resetStateValues : Obligations.ResetStateValues :=
  ⟨⟨rfl, rfl, State.reset.applyReset_slot_fields, rfl, rfl⟩, fun s hs hreset _ =>
    ⟨_, step_of_reset hs hreset, rfl, rfl, s.beginStep.applyReset_slot_fields, rfl, rfl⟩⟩

theorem Memory.mem_of_read {m : Memory} {a : Nat} {v : Byte} (h : Memory.read m a = some v) :
    (a, v) ∈ m := by
  induction m with
  | nil => cases h
  | cons c m ih =>
    obtain ⟨b, w⟩ := c
    rw [Memory.read] at h
    split at h
    · next hab => simp [hab, Option.some.inj h]
    · exact List.mem_cons_of_mem _ (ih h)

/-- Once all of OAM is written, every address has a listed byte. -/
theorem State.exists_read_of_oamWritten {s : State} (h : s.oamWritten = true) (a : BitVec 8) :
    ∃ v, Memory.read s.oam a.toNat = some v :=
  Option.isSome_iff_exists.mp (List.all_eq_true.mp h a.toNat (List.mem_range.mpr a.isLt))

/-- Settles O44: a listed byte is the one a read gives. -/
theorem writtenOamHidesPowerUp : Obligations.WrittenOamHidesPowerUp := by
  refine ⟨fun a => rfl, fun s a h => ?_⟩
  obtain ⟨v, hv⟩ := State.exists_read_of_oamWritten h a
  exact ⟨v, Memory.mem_of_read hv, by rw [State.memReadOam, Memory.readByte, hv, Option.getD_some]⟩

theorem ofBool_eq_one_iff (b : Bool) : BitVec.ofBool b = 1#1 ↔ b = true := by
  cases b <;> decide

/-- Settles O49: each port is the field, zero-extended where it is wider. -/
theorem outputPortsShowState : Obligations.OutputPortsShowState := by
  intro s k
  have hposx : (s.slotPosx k).toNat = s.slots[k].posX.toNat := by
    rw [State.slotPosx, BitVec.toNat_setWidth_of_le (by decide)]
  have hupper : (s.slotPosx k).extractLsb' 8 24 = 0#24 := by
    apply BitVec.eq_of_toNat_eq
    rw [BitVec.extractLsb'_toNat, hposx, Nat.shiftRight_eq_zero _ _ s.slots[k].posX.isLt]
    rfl
  have hoamidx : (s.slotOamidx k).toNat = s.slots[k].oamIdx.toNat := by
    rw [State.slotOamidx, BitVec.toNat_setWidth_of_le (by decide)]
  exact ⟨rfl, ofBool_eq_one_iff _, rfl, ofBool_eq_one_iff _, hposx, hupper, hoamidx,
    hoamidx ▸ s.slots[k].oamIdx.isLt, Option.isSome_iff_exists⟩

end Sys2Proof.Machine
end

section
/-!
Memory as the host and the core meet it (20_memory.md): the host's writes and what a step reads after them
(R56, R57, R59), the command a step runs on that memory, and where the pattern addresses lie (R58).
-/
namespace Sys2Proof.Machine

/-! ### The host's actions, seen through one read -/

section
variable {read : State → Byte}

/-- A read that no action of a list changes gives the same after the whole list. -/
theorem State.read_hostActions_of_kept {as : List HostAction}
    (h : ∀ x ∈ as, ∀ s : State, read (s.hostAction x) = read s) (s : State) :
    read (s.hostActions as) = read s := by
  induction as generalizing s with
  | nil => rfl
  | cons x as ih =>
    obtain ⟨hx, has⟩ := List.forall_mem_cons.mp h
    calc read (s.hostActions (x :: as)) = read (s.hostAction x) := ih has (s.hostAction x)
      _ = read s := hx s

/-- The action that sets a read counts if no action after it changes the read. -/
theorem State.read_hostActions_of_set {x : HostAction} {v : Byte}
    (hx : ∀ s : State, read (s.hostAction x) = v) (pre : List HostAction) {post : List HostAction}
    (hpost : ∀ y ∈ post, ∀ s : State, read (s.hostAction y) = read s) (s : State) :
    read (s.hostActions (pre ++ [x] ++ post)) = v := by
  have hsplit : s.hostActions (pre ++ [x] ++ post) =
      ((s.hostActions pre).hostAction x).hostActions post := by
    simp only [State.hostActions, List.foldl_append, List.foldl_cons, List.foldl_nil]
  rw [hsplit, State.read_hostActions_of_kept hpost, hx]

end

theorem State.memReadOam_hostAction_self (s : State) (a : BitVec 8) (v : Byte) :
    (s.hostAction (.writeOam a v)).memReadOam a = v :=
  (s.memReadOam_memWriteOam a a v).trans (if_pos rfl)

theorem State.memReadPat_hostAction_self (s : State) (a : U16) (v : Byte) :
    (s.hostAction (.writePat a v)).memReadPat a = v :=
  (s.memReadPat_memWritePat a a v).trans (if_pos rfl)

/-- Actions that are no write to an OAM address keep its byte. -/
theorem State.memReadOam_hostAction_of_not_mem {a : BitVec 8} {as : List HostAction}
    (h : ∀ u, .writeOam a u ∉ as) :
    ∀ x ∈ as, ∀ s : State, (s.hostAction x).memReadOam a = s.memReadOam a := by
  intro x hx s
  cases x with
  | writeOam b v =>
    have hab : a ≠ b := fun e => h v (e ▸ hx)
    exact (s.memReadOam_memWriteOam b a v).trans (if_neg hab)
  | writePat b v => rfl

/-- Actions that do not change `PAT` at an address keep its byte. -/
theorem State.memReadPat_hostAction_of_not_mem {a : U16} {as : List HostAction}
    (h : ∀ u, .writePat a u ∉ as) :
    ∀ x ∈ as, ∀ s : State, (s.hostAction x).memReadPat a = s.memReadPat a := by
  intro x hx s
  cases x with
  | writeOam b v => rfl
  | writePat b v =>
    have hab : a ≠ b := fun e => h v (e ▸ hx)
    exact (s.memReadPat_memWritePat b a v).trans (if_neg hab)

/-- Settles O43: one action by the rules of a write; the actions of a step by what the last write to the
address sets, and what the actions after it keep. -/
theorem hostWritesAreSeen : Obligations.HostWritesAreSeen := by
  refine ⟨State.memReadOam_memWriteOam, State.memReadPat_memWritePat, ?_, ?_, ?_, ?_⟩
  · intro s a v pre post hactions hpost
    rw [State.beginStep, hactions]
    exact State.read_hostActions_of_set (read := (·.memReadOam a))
      (fun t => t.memReadOam_hostAction_self a v) pre (State.memReadOam_hostAction_of_not_mem hpost) _
  · intro s a v pre post hactions hpost
    rw [State.beginStep, hactions]
    exact State.read_hostActions_of_set (read := (·.memReadPat a))
      (fun t => t.memReadPat_hostAction_self a v) pre (State.memReadPat_hostAction_of_not_mem hpost) _
  · intro s a h
    exact State.read_hostActions_of_kept (read := (·.memReadOam a))
      (State.memReadOam_hostAction_of_not_mem h) s.dropInput
  · intro s a h
    exact State.read_hostActions_of_kept (read := (·.memReadPat a))
      (State.memReadPat_hostAction_of_not_mem h) s.dropInput

/-! ### The command of a step -/

theorem commandStep_of_decode_command {w : CmdWord} {i : Instr} (h : decode w = .command i) (s : State) :
    commandStep s (some w) = exec i s := by
  rw [commandStep, h]

/-- Settles O36: the branch of the step for a command, and the frame of the start of a step. -/
theorem stepRunsDecodedCommand : Obligations.StepRunsDecodedCommand := by
  intro s w i hs hreset hcmd hdecode
  refine ⟨?_, s.beginStep_frame, s.beginStep_of_no_action⟩
  rw [step_of_command hs hreset, hcmd, commandStep_of_decode_command hdecode]

/-! ### The pattern addresses -/

/-- The vertical flip mirrors a row within the sprite's height (42_pattern_fetch.md R162). -/
theorem flippedRow_lt {size : SpriteSize} {row : U32} (h : row < spriteHeight size) (attr : Byte) :
    flippedRow size attr row < spriteHeight size := by
  unfold flippedRow
  split
  · cases size <;> simp only [spriteHeight] at h ⊢ <;> bv_omega
  · exact h

theorem tableBase_le (table : TableSelect) : (tableBase table).toNat ≤ 0x1000 := by
  cases table <;> decide

theorem tileRow_base_le (size : SpriteSize) (table : TableSelect) (tile : Byte) (r : U32) :
    (tileRow size table tile r).base.toNat ≤ 0x1000 := by
  cases size with
  | small => exact tableBase_le table
  | large =>
    simp only [tileRow]
    split <;> exact tableBase_le _

/-- A row of the sprite is one of the 8 rows of the tile it reads (R163). -/
theorem tileRow_row_lt {size : SpriteSize} {r : U32} (h : r < spriteHeight size) (table : TableSelect)
    (tile : Byte) : (tileRow size table tile r).row.toNat < 8 := by
  cases size with
  | small => exact BitVec.lt_def.mp h
  | large =>
    simp only [spriteHeight] at h
    simp only [tileRow]
    split <;> bv_omega

/-- The sum of R164 fits in 16 bits. -/
theorem lowPlaneAddr_toNat {p : TileRow} (hbase : p.base.toNat ≤ 0x1000) (hrow : p.row.toNat < 8) :
    (lowPlaneAddr p).toNat = p.base.toNat + p.tile.toNat * 16 + p.row.toNat := by
  have htile : p.tile.toNat < 256 := p.tile.isLt
  simp only [lowPlaneAddr, BitVec.toNat_add, BitVec.toNat_mul, BitVec.toNat_setWidth, BitVec.toNat_ofNat]
  omega

theorem highPlaneAddr_toNat {p : TileRow} (h : (lowPlaneAddr p).toNat ≤ 0x1FF7) :
    (highPlaneAddr p).toNat = (lowPlaneAddr p).toNat + 8 := by
  rw [highPlaneAddr, BitVec.toNat_add]
  simp only [BitVec.toNat_ofNat]
  omega

/-- Settles O28: the base, the tile and the row within the tile are bounded, so their sum is. -/
theorem patternAddressesInTables : Obligations.PatternAddressesInTables := by
  intro s i row size table hrow
  have hbase : (s.spriteTileRow i row size table).base.toNat ≤ 0x1000 := tileRow_base_le _ _ _ _
  have hrow8 : (s.spriteTileRow i row size table).row.toNat < 8 :=
    tileRow_row_lt (flippedRow_lt hrow _) _ _
  have htile := (s.spriteTileRow i row size table).tile.isLt
  have hlow : (lowPlaneAddr (s.spriteTileRow i row size table)).toNat ≤ 0x1FF7 := by
    rw [lowPlaneAddr_toNat hbase hrow8]
    omega
  exact ⟨hlow, highPlaneAddr_toNat hlow⟩

end Sys2Proof.Machine
end

section
/-!
The decoder as a function of the fields (30_encoding.md R81 to R83): the rows of the opcode map differ in OP, a word
that is not reserved matches the row of its OP, and the encoder packs what the rows read.
-/
namespace Sys2Proof

/-! ### Words and their fields -/

theorem getLsbD_eq_of_extractLsb'_eq {v w : CmdWord} {start len j : Nat}
    (h : v.extractLsb' start len = w.extractLsb' start len) (hj : start ≤ j ∧ j < start + len) :
    v.getLsbD j = w.getLsbD j := by
  have hbit := congrArg (·.getLsbD (j - start)) h
  have hlen : j - start < len := by omega
  simpa [hlen, Nat.add_sub_cancel' hj.1] using hbit

/-- The fields of R72 make up the whole word. -/
theorem eq_of_fields_eq {v w : CmdWord} (hop : fieldOp v = fieldOp w) (hl : v.getLsbD 4 = w.getLsbD 4)
    (ht : v.getLsbD 5 = w.getLsbD 5) (hres0 : fieldRes0 v = fieldRes0 w) (hfx : fieldFx v = fieldFx w)
    (hidx : fieldIdx v = fieldIdx w) (hres1 : fieldRes1 v = fieldRes1 w)
    (himm : fieldImm v = fieldImm w) : v = w := by
  apply BitVec.eq_of_getLsbD_eq
  intro j hj
  obtain h | rfl | rfl | h | h | h | h | h :
      (0 ≤ j ∧ j < 0 + 4) ∨ j = 4 ∨ j = 5 ∨ (6 ≤ j ∧ j < 6 + 2) ∨ (8 ≤ j ∧ j < 8 + 8) ∨
        (16 ≤ j ∧ j < 16 + 6) ∨ (22 ≤ j ∧ j < 22 + 10) ∨ (32 ≤ j ∧ j < 32 + 32) := by omega
  · exact getLsbD_eq_of_extractLsb'_eq hop h
  · exact hl
  · exact ht
  · exact getLsbD_eq_of_extractLsb'_eq hres0 h
  · exact getLsbD_eq_of_extractLsb'_eq hfx h
  · exact getLsbD_eq_of_extractLsb'_eq hidx h
  · exact getLsbD_eq_of_extractLsb'_eq hres1 h
  · exact getLsbD_eq_of_extractLsb'_eq himm h

section
variable (imm : U32) (idx : BitVec 6) (fx : Byte) (t l : BitVec 1) (op : BitVec 4)

@[simp] theorem fieldOp_packWord : fieldOp (packWord imm idx fx t l op) = op :=
  have ⟨h, _⟩ := Laws.NotReserved.fields_packWord imm idx fx t l op
  h

@[simp] theorem fieldRes0_packWord : fieldRes0 (packWord imm idx fx t l op) = 0#2 :=
  have ⟨_, h, _⟩ := Laws.NotReserved.fields_packWord imm idx fx t l op
  h

@[simp] theorem fieldFx_packWord : fieldFx (packWord imm idx fx t l op) = fx :=
  have ⟨_, _, h, _⟩ := Laws.NotReserved.fields_packWord imm idx fx t l op
  h

@[simp] theorem fieldIdx_packWord : fieldIdx (packWord imm idx fx t l op) = idx :=
  have ⟨_, _, _, h, _⟩ := Laws.NotReserved.fields_packWord imm idx fx t l op
  h

@[simp] theorem fieldRes1_packWord : fieldRes1 (packWord imm idx fx t l op) = 0#10 :=
  have ⟨_, _, _, _, h, _⟩ := Laws.NotReserved.fields_packWord imm idx fx t l op
  h

@[simp] theorem fieldImm_packWord : fieldImm (packWord imm idx fx t l op) = imm :=
  have ⟨_, _, _, _, _, h, _⟩ := Laws.NotReserved.fields_packWord imm idx fx t l op
  h

theorem getLsbD_four_packWord : (packWord imm idx fx t l op).getLsbD 4 = l.getLsbD 0 :=
  have ⟨_, _, _, _, _, _, h, _⟩ := Laws.NotReserved.fields_packWord imm idx fx t l op
  h

theorem getLsbD_five_packWord : (packWord imm idx fx t l op).getLsbD 5 = t.getLsbD 0 :=
  have ⟨_, _, _, _, _, _, _, h⟩ := Laws.NotReserved.fields_packWord imm idx fx t l op
  h

@[simp] theorem fieldL_packWord (size : SpriteSize) :
    fieldL (packWord imm idx fx t (sizeBit size) op) = size := by
  rw [fieldL, getLsbD_four_packWord]
  cases size <;> rfl

@[simp] theorem fieldT_packWord (table : TableSelect) :
    fieldT (packWord imm idx fx (tableBit table) l op) = table := by
  rw [fieldT, getLsbD_five_packWord]
  cases table <;> rfl

end

theorem getLsbD_sizeBit_fieldL (w : CmdWord) : (sizeBit (fieldL w)).getLsbD 0 = w.getLsbD 4 := by
  rw [fieldL]
  cases w.getLsbD 4 <;> rfl

theorem getLsbD_tableBit_fieldT (w : CmdWord) : (tableBit (fieldT w)).getLsbD 0 = w.getLsbD 5 := by
  rw [fieldT]
  cases w.getLsbD 5 <;> rfl

/-! ### The words that are not reserved -/

theorem reservedWord_eq_false_iff (w : CmdWord) : reservedWord w = false ↔
    (fieldOp w).toNat ≤ 8 ∧ fieldRes0 w = 0#2 ∧ fieldRes1 w = 0#10 ∧
    (opUsesLT (fieldOp w) = true ∨ w.getLsbD 4 = false ∧ w.getLsbD 5 = false) ∧
    (opUsesFx (fieldOp w) = true ∨ fieldFx w = 0#8) ∧
    (opUsesIdx (fieldOp w) = true ∨ fieldIdx w = 0#6) ∧
    (opUsesImm (fieldOp w) = true ∨ fieldImm w = 0#32) := by
  simp only [reservedWord, opReserved, reservedBitSet, unusedFieldSet, Bool.or_eq_false_iff,
    Bool.and_eq_false_iff, Bool.not_eq_false', bne_eq_false_iff_eq, decide_eq_false_iff_not, Nat.not_lt,
    and_assoc]

theorem reservedWord_encode (i : Instr) : reservedWord (encode i) = false := by
  cases i with
  | nop => exact Laws.NotReserved.nop
  | setlo imm => exact Laws.NotReserved.setlo imm
  | sethi imm => exact Laws.NotReserved.sethi imm
  | shl4 => exact Laws.NotReserved.shl4
  | getpix fx => exact Laws.NotReserved.getpix fx
  | gethi => exact Laws.NotReserved.gethi
  | getlo => exact Laws.NotReserved.getlo
  | eval size table scanline => exact Laws.NotReserved.eval size table scanline
  | fetch size table idx row => exact Laws.NotReserved.fetch size table idx row

/-! ### The rows of the opcode map -/

theorem fieldOp_pattern_nodup : (opcodeRows.map fun r => fieldOp r.pattern).Nodup := by decide

theorem exists_row_of_op : ∀ op : BitVec 4, op.toNat ≤ 8 → ∃ r ∈ opcodeRows, fieldOp r.pattern = op := by
  decide

theorem fieldOp_of_matches {r : OpcodeRow} {w : CmdWord} (hr : r ∈ opcodeRows)
    (h : w &&& r.mask = r.pattern) : fieldOp w = fieldOp r.pattern := by
  obtain ⟨hop, -⟩ := opcodeRows_pinsUnused r hr
  exact extractLsb'_eq_of_and_eq h 0 4 hop

/-- OP alone tells the rows apart, so no word matches two. -/
theorem row_eq_of_matches {r q : OpcodeRow} {w : CmdWord} (hr : r ∈ opcodeRows) (hq : q ∈ opcodeRows)
    (hwr : w &&& r.mask = r.pattern) (hwq : w &&& q.mask = q.pattern) : r = q :=
  List.inj_on_of_nodup_map fieldOp_pattern_nodup hr hq
    ((fieldOp_of_matches hr hwr).symm.trans (fieldOp_of_matches hq hwq))

theorem exists_row_of_decode_command {w : CmdWord} {i : Instr} (h : decode w = .command i) :
    ∃ r ∈ opcodeRows, w &&& r.mask = r.pattern ∧ r.build w = i := by
  unfold decode at h
  split at h
  · next r hr =>
    exact ⟨r, List.mem_of_find?_eq_some hr,
      eq_of_beq (List.find?_some (p := fun r : OpcodeRow => r.selects w) hr), Decoded.command.inj h⟩
  · cases h

theorem decode_of_no_match {w : CmdWord} (h : ∀ r ∈ opcodeRows, w &&& r.mask ≠ r.pattern) :
    decode w = .reserved w := by
  cases hd : decode w with
  | command i =>
    obtain ⟨r, hr, hmatch, -⟩ := exists_row_of_decode_command hd
    exact absurd hmatch (h r hr)
  | reserved v => rw [eq_of_decode_reserved hd]

theorem exists_command_of_matches {r : OpcodeRow} {w : CmdWord} (hr : r ∈ opcodeRows)
    (h : w &&& r.mask = r.pattern) : ∃ i, decode w = .command i := by
  have hsome : (opcodeRows.find? fun q => q.selects w).isSome :=
    List.find?_isSome.mpr ⟨r, hr, beq_iff_eq.mpr h⟩
  obtain ⟨q, hq⟩ := Option.isSome_iff_exists.mp hsome
  exact ⟨q.build w, by rw [decode, hq]⟩

theorem decode_of_matches {r : OpcodeRow} {w : CmdWord} (hr : r ∈ opcodeRows)
    (h : w &&& r.mask = r.pattern) : decode w = .command (r.build w) := by
  obtain ⟨i, hi⟩ := exists_command_of_matches hr h
  obtain ⟨q, hq, hmatch, rfl⟩ := exists_row_of_decode_command hi
  rw [hi, row_eq_of_matches hr hq h hmatch]

theorem decode_of_matches_row (k : Fin 9) {w : CmdWord}
    (h : w &&& opcodeRows[k].mask = opcodeRows[k].pattern) : decode w = .command (opcodeRows[k].build w) :=
  decode_of_matches (List.getElem_mem _) h

/-- The other half of `PinsUnused`: a row's mask leaves the fields its opcode uses free, and its pattern is OP
with every other bit 0. -/
def OpcodeRow.FreesUsed (r : OpcodeRow) : Prop :=
  r.pattern = packWord 0 0 0 0 0 (fieldOp r.pattern) ∧
  (opUsesLT (fieldOp r.pattern) = true → r.mask.getLsbD 4 = false ∧ r.mask.getLsbD 5 = false) ∧
  (opUsesFx (fieldOp r.pattern) = true → fieldFx r.mask = 0#8) ∧
  (opUsesIdx (fieldOp r.pattern) = true → fieldIdx r.mask = 0#6) ∧
  (opUsesImm (fieldOp r.pattern) = true → fieldImm r.mask = 0#32)

theorem opcodeRows_freesUsed : ∀ r ∈ opcodeRows, r.FreesUsed := by
  unfold OpcodeRow.FreesUsed
  decide

theorem extractLsb'_and_eq_zero {w mask : CmdWord} {start len : Nat}
    (h : mask.extractLsb' start len = 0#len ∨ w.extractLsb' start len = 0#len) :
    (w &&& mask).extractLsb' start len = 0#len := by
  rw [BitVec.extractLsb'_and]
  obtain h | h := h
  · rw [h, BitVec.and_zero]
  · rw [h, BitVec.zero_and]

theorem getLsbD_and_eq_false {w mask : CmdWord} {j : Nat}
    (h : mask.getLsbD j = false ∨ w.getLsbD j = false) : (w &&& mask).getLsbD j = false := by
  rw [BitVec.getLsbD_and]
  obtain h | h := h
  · rw [h, Bool.and_false]
  · rw [h, Bool.false_and]

/-- A word that is not reserved matches the row of its OP: every other field is 0 or not looked at. -/
theorem matches_of_not_reserved {r : OpcodeRow} {w : CmdWord} (hr : r ∈ opcodeRows)
    (hop : fieldOp w = fieldOp r.pattern) (hw : reservedWord w = false) : w &&& r.mask = r.pattern := by
  obtain ⟨hmask, -⟩ := opcodeRows_pinsUnused r hr
  obtain ⟨hpattern, hlt, hfx, hidx, himm⟩ := opcodeRows_freesUsed r hr
  obtain ⟨-, wres0, wres1, wlt, wfx, widx, wimm⟩ := (reservedWord_eq_false_iff w).mp hw
  rw [hop] at wlt wfx widx wimm
  have hand_op : fieldOp (w &&& r.mask) = fieldOp r.pattern := by
    have hand : fieldOp (w &&& r.mask) = fieldOp w &&& fieldOp r.mask := BitVec.extractLsb'_and
    rw [hand, hmask, hop]
    exact BitVec.and_allOnes
  have hand_lt : (w &&& r.mask).getLsbD 4 = false ∧ (w &&& r.mask).getLsbD 5 = false := by
    obtain ⟨h4, h5⟩ | ⟨h4, h5⟩ := wlt.imp_left hlt
    · exact ⟨getLsbD_and_eq_false (.inl h4), getLsbD_and_eq_false (.inl h5)⟩
    · exact ⟨getLsbD_and_eq_false (.inr h4), getLsbD_and_eq_false (.inr h5)⟩
  rw [hpattern]
  apply eq_of_fields_eq
  · rw [hand_op, fieldOp_packWord]
  · rw [hand_lt.1, getLsbD_four_packWord]; rfl
  · rw [hand_lt.2, getLsbD_five_packWord]; rfl
  · rw [fieldRes0_packWord]; exact extractLsb'_and_eq_zero (.inr wres0)
  · rw [fieldFx_packWord]; exact extractLsb'_and_eq_zero (wfx.imp_left hfx)
  · rw [fieldIdx_packWord]; exact extractLsb'_and_eq_zero (widx.imp_left hidx)
  · rw [fieldRes1_packWord]; exact extractLsb'_and_eq_zero (.inr wres1)
  · rw [fieldImm_packWord]; exact extractLsb'_and_eq_zero (wimm.imp_left himm)

/-- The decoder's answer for a word that is not reserved, from its OP. -/
theorem decode_of_op {r : OpcodeRow} {w : CmdWord} (hr : r ∈ opcodeRows)
    (hop : fieldOp w = fieldOp r.pattern) (hw : reservedWord w = false) :
    decode w = .command (r.build w) :=
  decode_of_matches hr (matches_of_not_reserved hr hop hw)

/-- The decoder and the list of R83 agree on the reserved words. -/
theorem decode_eq_reserved_iff (w : CmdWord) : decode w = .reserved w ↔ reservedWord w = true := by
  refine ⟨fun h => ?_, decode_of_reservedWord⟩
  by_contra hw
  rw [Bool.not_eq_true] at hw
  obtain ⟨hop, -⟩ := (reservedWord_eq_false_iff w).mp hw
  obtain ⟨r, hr, hrop⟩ := exists_row_of_op (fieldOp w) hop
  exact nomatch h.symm.trans (decode_of_op hr hrop.symm hw)

/-! ### The two round trips -/

/-- The place of a command's row in the opcode map, which is its opcode (R80). -/
def Instr.rowIndex : Instr → Fin 9
  | .nop => 0
  | .setlo _ => 1
  | .sethi _ => 2
  | .shl4 => 3
  | .getpix _ => 4
  | .gethi => 5
  | .getlo => 6
  | .eval .. => 7
  | .fetch .. => 8

/-- The row of a command in the opcode map. -/
def Instr.row (i : Instr) : OpcodeRow := opcodeRows[i.rowIndex]

theorem Instr.row_mem (i : Instr) : i.row ∈ opcodeRows := List.getElem_mem _

/-- The encoder writes the OP of the command's row. -/
theorem fieldOp_encode (i : Instr) : fieldOp (encode i) = fieldOp i.row.pattern := by
  cases i <;> exact fieldOp_packWord ..

/-- The row's reader takes back the operands the encoder packed. -/
theorem build_encode (i : Instr) : i.row.build (encode i) = i := by
  cases i with
  | nop | shl4 | gethi | getlo => rfl
  | setlo imm => exact congrArg Instr.setlo (fieldImm_packWord ..)
  | sethi imm => exact congrArg Instr.sethi (fieldImm_packWord ..)
  | getpix fx => exact congrArg Instr.getpix (fieldFx_packWord ..)
  | eval size table scanline =>
    change Instr.eval (fieldL _) (fieldT _) (fieldImm _) = _
    simp [encode]
  | fetch size table idx row =>
    change Instr.fetch (fieldL _) (fieldT _) (fieldIdx _) (fieldImm _) = _
    simp [encode]

theorem decode_encode (i : Instr) : decode (encode i) = .command i := by
  rw [decode_of_op i.row_mem (fieldOp_encode i) (reservedWord_encode i), build_encode]

/-- The fields of a word that an opcode uses, packed under that opcode with every other field 0. -/
def packUsed (op : BitVec 4) (w : CmdWord) : CmdWord :=
  packWord (if opUsesImm op then fieldImm w else 0) (if opUsesIdx op then fieldIdx w else 0)
    (if opUsesFx op then fieldFx w else 0) (if opUsesLT op then tableBit (fieldT w) else 0)
    (if opUsesLT op then sizeBit (fieldL w) else 0) op

/-- The encoder packs the fields that the row of the command read. -/
theorem encode_build (w : CmdWord) :
    ∀ r ∈ opcodeRows, encode (r.build w) = packUsed (fieldOp r.pattern) w := by
  simp only [opcodeRows, List.forall_mem_cons]
  exact ⟨rfl, rfl, rfl, rfl, rfl, rfl, rfl, rfl, rfl, nofun⟩

theorem ite_eq_of_used_or_zero {n : Nat} {used : Bool} {x : BitVec n} (h : used = true ∨ x = 0#n) :
    (if used then x else 0) = x := by
  obtain rfl | rfl := h
  · rfl
  · exact ite_self _

/-- A word that is not reserved has nothing but the fields its opcode uses. -/
theorem packUsed_fieldOp {w : CmdWord} (hw : reservedWord w = false) : packUsed (fieldOp w) w = w := by
  obtain ⟨-, wres0, wres1, wlt, wfx, widx, wimm⟩ := (reservedWord_eq_false_iff w).mp hw
  have size_eq : (if opUsesLT (fieldOp w) then sizeBit (fieldL w) else 0) = sizeBit (fieldL w) :=
    ite_eq_of_used_or_zero (wlt.imp_right fun ⟨h4, _⟩ => by rw [fieldL, h4]; rfl)
  have table_eq : (if opUsesLT (fieldOp w) then tableBit (fieldT w) else 0) = tableBit (fieldT w) :=
    ite_eq_of_used_or_zero (wlt.imp_right fun ⟨_, h5⟩ => by rw [fieldT, h5]; rfl)
  rw [packUsed, ite_eq_of_used_or_zero wfx, ite_eq_of_used_or_zero widx, ite_eq_of_used_or_zero wimm,
    size_eq, table_eq]
  exact eq_of_fields_eq (fieldOp_packWord ..)
    ((getLsbD_four_packWord ..).trans (getLsbD_sizeBit_fieldL w))
    ((getLsbD_five_packWord ..).trans (getLsbD_tableBit_fieldT w))
    ((fieldRes0_packWord ..).trans wres0.symm) (fieldFx_packWord ..) (fieldIdx_packWord ..)
    ((fieldRes1_packWord ..).trans wres1.symm) (fieldImm_packWord ..)

theorem encode_of_decode {w : CmdWord} {i : Instr} (h : decode w = .command i) : encode i = w := by
  obtain ⟨r, hr, hmatch, rfl⟩ := exists_row_of_decode_command h
  rw [encode_build w r hr, ← fieldOp_of_matches hr hmatch,
    packUsed_fieldOp (reservedWord_of_decode_command h)]

end Sys2Proof

namespace Sys2Proof.Machine

/-- Settles O5: the encoded word is not reserved and matches the command's row, whose reader takes back the
operands. -/
theorem decodeOfEncode : Obligations.DecodeOfEncode := decode_encode

/-- Settles O6: the row of the command read every field of the word that can be other than 0. -/
theorem encodeOfDecode : Obligations.EncodeOfDecode := fun _ _ => encode_of_decode

/-- Settles O3: a matching row is the one the decoder finds, because OP tells the rows apart. -/
theorem decodeFollowsOpcodeMap : Obligations.DecodeFollowsOpcodeMap := by
  refine ⟨fun _ => decode_of_matches_row 0, fun _ => decode_of_matches_row 1,
    fun _ => decode_of_matches_row 2, fun _ => decode_of_matches_row 3, fun _ => decode_of_matches_row 4,
    fun _ => decode_of_matches_row 5, fun _ => decode_of_matches_row 6, fun _ => decode_of_matches_row 7,
    fun _ => decode_of_matches_row 8, fun _ => decode_of_no_match, ?_⟩
  have hop : opcodeRows.Pairwise fun r q => fieldOp r.pattern ≠ fieldOp q.pattern :=
    List.pairwise_map.mp fieldOp_pattern_nodup
  refine hop.imp_of_mem fun hr hq hne w hwr hwq => hne ?_
  rw [row_eq_of_matches hr hq hwr hwq]

/-! ### The reserved words by raw fields -/

theorem opUsesLT_iff_mem : ∀ op : BitVec 4, opUsesLT op = true ↔ op.toNat ∈ [7, 8] := by decide

theorem opUsesFx_iff_eq : ∀ op : BitVec 4, opUsesFx op = true ↔ op.toNat = 4 := by decide

theorem opUsesIdx_iff_eq : ∀ op : BitVec 4, opUsesIdx op = true ↔ op.toNat = 8 := by decide

theorem opUsesImm_iff_mem : ∀ op : BitVec 4, opUsesImm op = true ↔ op.toNat ∈ [1, 2, 7, 8] := by decide

theorem extractLsb'_four_two_eq_zero_iff (w : CmdWord) :
    w.extractLsb' 4 2 = 0#2 ↔ w.getLsbD 4 = false ∧ w.getLsbD 5 = false := by
  refine ⟨fun h => ⟨?_, ?_⟩, fun ⟨h4, h5⟩ => BitVec.eq_of_getLsbD_eq fun j hj => ?_⟩
  · simpa using congrArg (·.getLsbD 0) h
  · simpa using congrArg (·.getLsbD 1) h
  · interval_cases j <;> simpa

/-- Settles O4: the decoder reserves what R83 lists, read with the table of R80. -/
theorem reservedEncodingsExactly : Obligations.ReservedEncodingsExactly := by
  intro w
  rw [decode_eq_reserved_iff, ← Bool.not_eq_false, reservedWord_eq_false_iff, opUsesLT_iff_mem,
    opUsesFx_iff_eq, opUsesIdx_iff_eq, opUsesImm_iff_mem, ← extractLsb'_four_two_eq_zero_iff]
  simp only [fieldOp, fieldRes0, fieldRes1, fieldFx, fieldIdx, fieldImm]
  have hop : 9 ≤ (w.extractLsb' 0 4).toNat ↔ ¬ (w.extractLsb' 0 4).toNat ≤ 8 := Nat.not_le.symm
  tauto

/-- Settles O41: the reserved words are those of R83; the refusals are the first two clauses of R38's
statement. -/
theorem reservedWordIsRefused : Obligations.ReservedWordIsRefused := by
  obtain ⟨hreserved, hmarked, -⟩ := refusedMarkIsNeverCleared
  refine ⟨decode_eq_reserved_iff, fun s w hs hreset hcmd hw => ?_, fun s hs => ?_⟩
  · exact ⟨_, hreserved s w hs hreset hcmd ((decode_eq_reserved_iff w).mp hw), rfl⟩
  · obtain ⟨after, hstep, hafter, -⟩ := hmarked s hs
    exact ⟨after, hstep, hafter⟩

end Sys2Proof.Machine
end

section
/-!
The assembler (30_encoding.md R84 to R86): numbers are read back from their digits, each form of a line gives its
command's word, and the pseudo-commands give the words of the commands they stand for.
-/
namespace Sys2Proof

/-! ### Numbers -/

theorem readDigits_append (base n : Nat) (cs ds : List Char) :
    readDigits base n (cs ++ ds) = (readDigits base n cs).bind fun m => readDigits base m ds := by
  induction cs generalizing n with
  | nil => rfl
  | cons c cs ih =>
    simp only [List.cons_append, readDigits]
    cases digitValue c with
    | none => rfl
    | some d =>
      by_cases hd : d < base
      · simp [hd, ih]
      · simp [hd]

theorem digitValue_digitChar : ∀ d < 16, digitValue (Nat.digitChar d) = some d := by decide

theorem readDigits_digitChar {base d : Nat} (hd : d < base) (hbase : base ≤ 16) (n : Nat) :
    readDigits base n [Nat.digitChar d] = some (base * n + d) := by
  simp [readDigits, digitValue_digitChar d (by omega), hd]

/-- The digits of a number are read back, by induction on dropping the last one. -/
theorem readDigits_toDigits {base : Nat} (hone : 1 < base) (hbase : base ≤ 16) (n : Nat) :
    readDigits base 0 (Nat.toDigits base n) = some n := by
  induction n using Nat.strongRecOn with
  | ind n ih =>
    rw [Nat.toDigits_eq_if hone]
    split
    · next hn => rw [readDigits_digitChar hn hbase, Nat.mul_zero, Nat.zero_add]
    · next hn =>
      have hlt : n / base < n := Nat.div_lt_self (by omega) hone
      rw [readDigits_append, ih _ hlt, Option.bind_some,
        readDigits_digitChar (Nat.mod_lt n (by omega)) hbase, Nat.div_add_mod]

/-- No run of decimal digits begins as a hexadecimal number does. -/
theorem readNumber_of_readDigits_ten {cs : List Char} {n : Nat} (hne : cs ≠ [])
    (h : readDigits 10 0 cs = some n) : readNumber cs = some n := by
  unfold readNumber
  split
  · exact absurd rfl hne
  · exact nomatch h
  · exact nomatch h
  · exact h

theorem readNumber_hex {cs : List Char} (hne : cs ≠ []) :
    readNumber ('0' :: 'x' :: cs) = readDigits 16 0 cs := by
  cases cs with
  | nil => exact absurd rfl hne
  | cons c cs => rfl

/-! ### Lines -/

theorem decode_of_encode_eq {w : CmdWord} {i : Instr} (h : encode i = w) : decode w = .command i :=
  h ▸ decode_encode i

theorem assemble_of_wf {line : AsmLine} (h : line.wf = true) :
    assemble line = some (line.expand.map encode) := if_pos h

theorem assemble_of_not_wf {line : AsmLine} (h : line.wf = false) : assemble line = none :=
  if_neg (by rw [h]; exact Bool.false_ne_true)

/-- A well-formed line that stands for one command gives the one word that decodes to it. -/
theorem assemble_one {line : AsmLine} {i : Instr} (hwf : line.wf = true) (hline : line.expand = [i]) :
    ∃ w, assemble line = some [w] ∧ decode w = .command i :=
  ⟨encode i, by rw [assemble_of_wf hwf, hline, List.map_singleton], decode_encode i⟩

theorem fitsImm_toNat (v : U32) : fitsImm v.toNat = true := decide_eq_true (Nat.le_of_lt_succ v.isLt)

theorem fitsFx_toNat (fx : Byte) : fitsFx fx.toNat = true := decide_eq_true (Nat.le_of_lt_succ fx.isLt)

theorem fitsIdx_toNat (i : BitVec 6) : fitsIdx i.toNat = true := decide_eq_true (Nat.le_of_lt_succ i.isLt)

theorem fitsImm_of_lt {v : Nat} (h : 0xFFFFFFFF < v) : fitsImm v = false := decide_eq_false (Nat.not_le.mpr h)

theorem fitsFx_of_lt {fx : Nat} (h : 255 < fx) : fitsFx fx = false := decide_eq_false (Nat.not_le.mpr h)

theorem fitsIdx_of_lt {i : Nat} (h : 63 < i) : fitsIdx i = false := decide_eq_false (Nat.not_le.mpr h)

theorem fitsAdvance_iff (n : Nat) : fitsAdvance n = true ↔ 1 ≤ n ∧ n ≤ 8 := by
  simp [fitsAdvance]

@[simp] theorem tableGiven_some (size : SpriteSize) (table : TableSelect) :
    tableGiven size (some table) = true := by
  cases size <;> rfl

theorem wf_eval_toNat (size : SpriteSize) (table : TableSelect) (v : U32) :
    (AsmLine.eval size (some table) v.toNat).wf = true := by
  simp [AsmLine.wf, fitsImm_toNat]

theorem wf_fetch_toNat (size : SpriteSize) (table : TableSelect) (i : BitVec 6) (v : U32) :
    (AsmLine.fetch size (some table) i.toNat v.toNat).wf = true := by
  simp [AsmLine.wf, fitsIdx_toNat, fitsImm_toNat]

theorem wf_eval_of_lt (size : SpriteSize) (table : Option TableSelect) {v : Nat} (h : 0xFFFFFFFF < v) :
    (AsmLine.eval size table v).wf = false := by
  rw [AsmLine.wf, fitsImm_of_lt h, Bool.and_false]

theorem wf_fetch_of_lt (size : SpriteSize) (table : Option TableSelect) {i v : Nat}
    (h : 63 < i ∨ 0xFFFFFFFF < v) : (AsmLine.fetch size table i v).wf = false := by
  obtain h | h := h
  · rw [AsmLine.wf, fitsIdx_of_lt h, Bool.and_false, Bool.false_and]
  · rw [AsmLine.wf, fitsImm_of_lt h, Bool.and_false]

end Sys2Proof

namespace Sys2Proof.Machine

/-- Settles O2: the reader undoes the digits in every base up to 16, and decimal digits are not taken for
hexadecimal ones. -/
theorem assemblyNumbersRead : Obligations.AssemblyNumbersRead := by
  intro n
  refine ⟨?_, ?_⟩
  · exact readNumber_of_readDigits_ten Nat.toDigits_ne_nil (readDigits_toDigits (by decide) (by decide) n)
  · rw [readNumber_hex Nat.toDigits_ne_nil]
    exact readDigits_toDigits (by decide) (by decide) n

/-- Settles O7: a well-formed form is one command, which its word decodes to; a line out of range is not well
formed. -/
theorem assemblerForms : Obligations.AssemblerForms := by
  refine ⟨assemble_one rfl rfl, assemble_one rfl rfl, assemble_one rfl rfl, assemble_one rfl rfl,
    fun v => assemble_one (fitsImm_toNat v) ?_, fun v => assemble_one (fitsImm_toNat v) ?_,
    fun fx => assemble_one (fitsFx_toNat fx) ?_, fun size t v => assemble_one (wf_eval_toNat size t v) ?_,
    fun size t i v => assemble_one (wf_fetch_toNat size t i v) ?_, fun _ => rfl, fun _ _ => rfl,
    fun v hv => ⟨assemble_of_not_wf (fitsImm_of_lt hv), assemble_of_not_wf (fitsImm_of_lt hv)⟩,
    fun fx hfx => assemble_of_not_wf (fitsFx_of_lt hfx),
    fun size t v hv => assemble_of_not_wf (wf_eval_of_lt size t hv),
    fun size t i v h => assemble_of_not_wf (wf_fetch_of_lt size t h)⟩
  all_goals simp [AsmLine.expand, tableOrLower]

theorem assemble_loadbg (hi lo : Nat) : assemble (.loadbg hi lo) =
    (assemble (.sethi hi)).bind fun a => (assemble (.setlo lo)).map fun b => a ++ b := by
  cases hhi : fitsImm hi with
  | false => simp [assemble, AsmLine.wf, hhi]
  | true => cases hlo : fitsImm lo <;> simp [assemble, AsmLine.wf, AsmLine.expand, hhi, hlo]

theorem assemble_advance {n : Nat} (h : 1 ≤ n ∧ n ≤ 8) : assemble (.advance n) =
    (assemble .shl4).map fun a => (List.replicate n a).flatten := by
  rw [assemble_of_wf (line := .advance n) ((fitsAdvance_iff n).mpr h), AsmLine.expand, List.map_replicate]
  exact congrArg some List.flatten_replicate_singleton.symm

theorem assemble_advance_of_not_fits {n : Nat} (h : ¬ (1 ≤ n ∧ n ≤ 8)) : assemble (.advance n) = none :=
  assemble_of_not_wf (Bool.not_eq_true _ ▸ mt (fitsAdvance_iff n).mp h)

/-- Settles O8: each pseudo-command expands to the commands of R85, and its range check is that of their
operands or of the count. -/
theorem pseudoCommandsExpand : Obligations.PseudoCommandsExpand :=
  ⟨assemble_loadbg, fun _ hone height => assemble_advance ⟨hone, height⟩,
    fun _ h => assemble_advance_of_not_fits (by omega), rfl⟩

/-- Settles O1: the text of each line of R86 is read by evaluation, and its word is the encoding of the
command written. -/
theorem workedEncodingsAgree : Obligations.WorkedEncodingsAgree := by
  refine ⟨⟨?_, decode_of_encode_eq ?_⟩, ⟨?_, decode_of_encode_eq ?_⟩, ⟨?_, decode_of_encode_eq ?_⟩,
    ⟨?_, decode_of_encode_eq ?_⟩, ⟨?_, decode_of_encode_eq ?_⟩, ⟨?_, decode_of_encode_eq ?_⟩⟩
  all_goals decide

end Sys2Proof.Machine
end

section
/-!
The background shifter (40_bg_shifter.md): a shift of the window read as its two registers and its columns, a kept
cadence read as a count of shifts (70_reset_and_hazards.md R240), and the statements of the family.
-/
namespace Sys2Proof.Machine

/-! ### The window, its two registers and its columns -/

/-- A window has one pair of registers. -/
theorem registers_eq_of_append_eq {high low high' low' : U32} (h : high' ++ low' = high ++ low) :
    high' = high ∧ low' = low := by
  refine ⟨?_, ?_⟩
  · rw [← BitVec.extractLsb'_append_eq_left (a := high') (b := low'), h, BitVec.extractLsb'_append_eq_left]
  · rw [← BitVec.extractLsb'_append_eq_right (a := high') (b := low'), h, BitVec.extractLsb'_append_eq_right]

/-- A shift of the window by at most one register moves the top bits of the trailing register into the leading
one. -/
theorem append_shiftLeft (high low : U32) {n : Nat} (hn : n ≤ 32) :
    (high ++ low) <<< n = (high <<< n ||| low >>> (32 - n)) ++ low <<< n := by
  apply BitVec.eq_of_getLsbD_eq
  intro j hj
  simp only [BitVec.getLsbD_append, BitVec.getLsbD_shiftLeft, BitVec.getLsbD_or, BitVec.getLsbD_ushiftRight]
  grind

/-- The registers after the window has moved left by at most one register. -/
theorem registers_of_append_eq_shift {high low high' low' : U32} {n : Nat} (hn : n ≤ 32)
    (h : high' ++ low' = (high ++ low) <<< n) :
    high' = high <<< n ||| low >>> (32 - n) ∧ low' = low <<< n :=
  registers_eq_of_append_eq (h.trans (append_shiftLeft high low hn))

/-- A shift by a whole register: the trailing register replaces the leading one (R105). -/
theorem registers_of_append_eq_shift_register {high low high' low' : U32}
    (h : high' ++ low' = (high ++ low) <<< 32) : high' = low ∧ low' = 0#32 := by
  obtain ⟨hhigh, hlow⟩ := registers_of_append_eq_shift (Nat.le_refl 32) h
  exact ⟨by simpa using hhigh, by simpa using hlow⟩

/-- A shift by at least the whole window leaves nothing of it (R105). -/
theorem registers_of_append_eq_shift_window {high low high' low' : U32} {n : Nat} (hn : 64 ≤ n)
    (h : high' ++ low' = (high ++ low) <<< n) : high' = 0#32 ∧ low' = 0#32 := by
  rw [BitVec.shiftLeft_eq_zero hn] at h
  exact registers_eq_of_append_eq (h.trans (BitVec.zero_append_zero (v := 32) (w := 32)).symm)

/-- Column `c` of a row as the rule of GETPIX computes it (R106). -/
theorem setWidth_pixelColumn (row : U32) (c : Nat) :
    (pixelColumn row c).setWidth 32 = row >>> ((7 - c) * 4) &&& 0xF#32 := by
  have hlt : (pixelColumn row c).toNat < 2 ^ 32 := Nat.lt_trans (pixelColumn row c).isLt (by decide)
  apply BitVec.eq_of_toNat_eq
  rw [BitVec.toNat_setWidth, Nat.mod_eq_of_lt hlt, pixelColumn, BitVec.extractLsb'_toNat, BitVec.toNat_and,
    BitVec.toNat_ushiftRight]
  exact (Nat.and_two_pow_sub_one_eq_mod _ 4).symm

/-- The first eight columns of the window are the columns of HIGH32 (10_state.md R23). -/
theorem State.pixelColumn_high32 (s : State) {c : Nat} (hc : c ≤ 7) :
    pixelColumn s.high32 c = windowColumn s.window c := by
  have hstart : (7 - c) * 4 = (15 - c) * 4 - 32 := by omega
  rw [pixelColumn, windowColumn, State.window, BitVec.extractLsb'_append_eq_of_le (by omega), hstart]

/-- Columns of the window move to the left with it: column `c` after `k` shifts was column `k + c`. -/
theorem windowColumn_shiftLeft (win : BitVec 64) {k c : Nat} (h : k + c ≤ 15) :
    windowColumn (win <<< (4 * k)) c = windowColumn win (k + c) := by
  apply BitVec.eq_of_getLsbD_eq
  intro j hj
  have hback : (15 - c) * 4 + j - 4 * k = (15 - (k + c)) * 4 + j := by omega
  have hle : ¬ (15 - c) * 4 + j < 4 * k := by omega
  have hlt : (15 - c) * 4 + j < 64 := by omega
  simp only [windowColumn, BitVec.getLsbD_extractLsb', BitVec.getLsbD_shiftLeft, hj, hback, hle, hlt, decide_true,
    decide_false, Bool.not_false, Bool.true_and]

/-! ### Runs of SHL4 -/

theorem runCommands_append {is : List Instr} {s t : State} (h : runCommands is s = .next t)
    (js : List Instr) : runCommands (is ++ js) s = runCommands js t := by
  induction is generalizing s with
  | nil => rw [← Host.Outcome.next.inj h]; rfl
  | cons i is ih =>
    obtain ⟨u, hu, -⟩ := exec_effect i s
    rw [runCommands_cons hu] at h
    rw [List.cons_append, runCommands_cons hu, ih h]

/-- `k` SHL4 complete and move the window left by `k` pixels. -/
theorem runCommands_replicate_shl4 (k : Nat) (s : State) :
    ∃ t, runCommands (List.replicate k .shl4) s = .next t ∧ t.window = s.window <<< (4 * k) := by
  have hreload : ∀ i ∈ List.replicate k Instr.shl4, isReload i = false := fun i hi =>
    (List.eq_of_mem_replicate hi) ▸ rfl
  have hcount : shiftCount (List.replicate k .shl4) = k := by
    simp [shiftCount, List.countP_replicate]
  simpa only [hcount] using runCommands_window (List.replicate k .shl4) s hreload

/-! ### The shift cadence -/

/-- Commands that are no reload only add their SHL4 to the count of shifts. -/
theorem cadenceKept_append_of_no_reload (mid rest : List Instr) (since : Option Nat)
    (h : ∀ i ∈ mid, isReload i = false) :
    cadenceKept since (mid ++ rest) = cadenceKept (since.map (· + shiftCount mid)) rest := by
  induction mid generalizing since with
  | nil => simp [shiftCount]
  | cons i mid ih =>
    obtain ⟨hi, hmid⟩ := List.forall_mem_cons.mp h
    rw [List.cons_append, cadenceKept, hi, shiftCount_cons]
    by_cases hshl4 : i = .shl4
    · simp [hshl4, ih _ hmid, Function.comp_def, Nat.add_assoc]
    · simp [hshl4, ih _ hmid]

/-- A kept cadence allows a reload right after a reload or after exactly eight shifts. -/
theorem shiftCount_of_cadenceKept {mid : List Instr} {r : Instr} (hmid : ∀ i ∈ mid, isReload i = false)
    (hr : isReload r = true) (h : cadenceKept (some 0) (mid ++ [r]) = true) :
    shiftCount mid = 0 ∨ shiftCount mid = 8 := by
  rw [cadenceKept_append_of_no_reload mid [r] _ hmid] at h
  simpa [cadenceKept, hr] using h

/-- The first reload, SETHI and SETLO in either order: it leaves the value of the SETLO in LOW32, and the cadence
counts from it. -/
theorem load_starts_cadence {h l : U32} {load : List Instr}
    (hload : load = [.sethi h, .setlo l] ∨ load = [.setlo l, .sethi h]) (s : State) (is : List Instr) :
    (∃ u, runCommands load s = .next u ∧ u.low32 = l) ∧
      cadenceKept none (load ++ is) = cadenceKept (some 0) is := by
  obtain rfl | rfl := hload <;> exact ⟨⟨_, rfl, rfl⟩, rfl⟩

/-! ### The statements -/

/-- Settles O11: the registers of a window shifted by 4 are both forms of the rule. -/
theorem shl4ShiftsWindow : Obligations.Shl4ShiftsWindow := by
  refine ⟨fun _ => decode_of_matches_row 3, fun s => ⟨_, exec_shl4 s, ?_, rfl, rfl,
    shiftedHigh_append_shiftedLow s.high32 s.low32⟩⟩
  obtain ⟨hhigh, hlow⟩ := registers_of_append_eq_shift (n := 4) (by decide)
    (shiftedHigh_append_shiftedLow s.high32 s.low32)
  rw [hhigh, hlow]
  rfl

/-- Settles O12: the column of the model is the rule's shift and mask. -/
theorem getpixReadsColumn : Obligations.GetpixReadsColumn :=
  ⟨fun _ => decode_of_matches_row 4, fun fx s hfx =>
    ⟨_, exec_getpix_of_le hfx s, setWidth_pixelColumn s.high32 fx.toNat, rfl⟩⟩

/-- Settles O16: the window after k shifts, read as its registers. -/
theorem consecutiveShifts : Obligations.ConsecutiveShifts := by
  refine ⟨fun k s hk => ?_, fun s => ?_, fun k s hk => ?_⟩
  · obtain ⟨t, ht, hwindow⟩ := runCommands_replicate_shl4 k s
    exact ⟨t, ht, registers_of_append_eq_shift (by omega) hwindow⟩
  · obtain ⟨t, ht, hwindow⟩ := runCommands_replicate_shl4 8 s
    exact ⟨t, ht, registers_of_append_eq_shift_register hwindow⟩
  · obtain ⟨t, ht, hwindow⟩ := runCommands_replicate_shl4 k s
    exact ⟨t, ht, registers_of_append_eq_shift_window (by omega) hwindow⟩

/-- Settles O17: the shifted window's first eight columns are those of HIGH32. -/
theorem pixelAfterShifts : Obligations.PixelAfterShifts := by
  refine ⟨fun s => ?_, fun s => ?_, fun k fx s hk hfx => ?_⟩
  · exact ⟨_, exec_getpix_of_le (by decide) s, congrArg some (setWidth_pixelColumn s.high32 0)⟩
  · exact ⟨_, exec_getpix_of_le (by decide) s, congrArg some (setWidth_pixelColumn s.high32 7)⟩
  · obtain ⟨t, ht, hwindow⟩ := runCommands_replicate_shl4 k s
    have hcolumn : pixelColumn t.high32 fx.toNat = windowColumn s.window (k + fx.toNat) := by
      rw [t.pixelColumn_high32 hfx, hwindow, windowColumn_shiftLeft s.window (by omega)]
    refine ⟨_, (runCommands_append ht _).trans (runCommands_cons (exec_getpix_of_le hfx t) []), ?_⟩
    rw [State.result_out, hcolumn]
    rfl

/-- Settles O19: at least one shift and a kept cadence make eight, and eight shifts move a register. -/
theorem keptCadenceReloadsOnTileBoundary : Obligations.KeptCadenceReloadsOnTileBoundary := by
  intro h l load mid r s hload hmid hr hshl4 hkept
  obtain ⟨⟨u, hu, hlow⟩, hstart⟩ := load_starts_cadence hload s (mid ++ [r])
  rw [List.append_assoc, hstart] at hkept
  have hpos : 0 < shiftCount mid := List.countP_pos_iff.mpr ⟨.shl4, hshl4, rfl⟩
  have hcount : shiftCount mid = 8 := by
    have hzero_or_eight := shiftCount_of_cadenceKept hmid hr hkept
    omega
  obtain ⟨t, ht, hwindow⟩ := runCommands_window mid u hmid
  rw [hcount] at hwindow
  obtain ⟨hhigh, hlow'⟩ := registers_of_append_eq_shift_register hwindow
  exact ⟨t, (runCommands_append hu mid).trans ht, hhigh.trans hlow, hlow'⟩

/-- Settles O20: each command's own equation, with HIGH32 and LOW32 the only fields it reads. -/
theorem shifterReadsAndWritesItsRegisters : Obligations.ShifterReadsAndWritesItsRegisters := by
  intro i s hi
  cases i with
  | nop | eval size table scanline | fetch size table idx row => cases hi
  | setlo v => exact ⟨_, rfl, rfl, fun s' hhigh _ => ⟨_, rfl, hhigh, rfl, fun _ => rfl⟩⟩
  | sethi v => exact ⟨_, rfl, rfl, fun s' _ hlow => ⟨_, rfl, rfl, hlow, fun _ => rfl⟩⟩
  | shl4 =>
    refine ⟨_, rfl, rfl, fun s' hhigh hlow => ⟨_, rfl, ?_, ?_, fun _ => rfl⟩⟩ <;> simp [hhigh, hlow]
  | gethi => exact ⟨_, rfl, rfl, fun s' hhigh hlow => ⟨_, rfl, hhigh, hlow, fun _ => congrArg some hhigh⟩⟩
  | getlo => exact ⟨_, rfl, rfl, fun s' hhigh hlow => ⟨_, rfl, hhigh, hlow, fun _ => congrArg some hlow⟩⟩
  | getpix fx =>
    by_cases hfx : fx.toNat ≤ 7
    · refine ⟨_, exec_getpix_of_le hfx s, rfl, fun s' hhigh hlow =>
        ⟨_, exec_getpix_of_le hfx s', hhigh, hlow, fun _ => ?_⟩⟩
      rw [State.result_out, State.result_out, hhigh]
    · refine ⟨_, exec_getpix_of_not_le hfx s, rfl, fun s' hhigh hlow =>
        ⟨_, exec_getpix_of_not_le hfx s', hhigh, hlow, fun hdraws => ?_⟩⟩
      exact absurd (of_decide_eq_true hdraws) hfx

/-- Settles O9: of two in a row the second overwrites the field the first wrote. -/
theorem setloLoadsLow : Obligations.SetloLoadsLow :=
  ⟨fun _ => decode_of_matches_row 1, exec_setlo, fun _ _ _ => rfl⟩

/-- Settles O10, by the row and the equation of SETHI. -/
theorem sethiLoadsHigh : Obligations.SethiLoadsHigh :=
  ⟨fun _ => decode_of_matches_row 2, exec_sethi⟩

/-- Settles O13: the nibble is the one the model draws. -/
theorem getpixOutOfRangeDraws : Obligations.GetpixOutOfRangeDraws := fun _ s hfx =>
  ⟨Config.drawNibble s.draws, _, exec_getpix_of_not_le (Nat.not_le.mpr hfx) s, rfl, rfl⟩

/-- Settles O14, by the row and the equation of GETHI. -/
theorem gethiReadsHigh : Obligations.GethiReadsHigh :=
  ⟨fun _ => decode_of_matches_row 5, exec_gethi⟩

/-- Settles O15, by the row and the equation of GETLO. -/
theorem getloReadsLow : Obligations.GetloReadsLow :=
  ⟨fun _ => decode_of_matches_row 6, exec_getlo⟩

end Sys2Proof.Machine
end

section
/-!
Sprite evaluation (41_sprite_eval.md): the range check as arithmetic on naturals, the entries in range as a list of
indices, the scan read off that list, and the statements of the family.
-/
namespace Sys2Proof.Machine

/-! ### The range check -/

theorem spriteHeight_toNat (size : SpriteSize) :
    (spriteHeight size).toNat = if size = .large then 16 else 8 := by
  cases size <;> rfl

theorem spriteRow_toNat (scanline : U32) (y : Byte) :
    (spriteRow scanline y).toNat = (scanline.toNat + 2 ^ 32 - y.toNat) % 2 ^ 32 := by
  have hy : (y.setWidth 32).toNat = y.toNat := BitVec.toNat_setWidth_of_le (by decide)
  have hlt : y.toNat < 2 ^ 8 := y.isLt
  rw [spriteRow, BitVec.toNat_sub, hy]
  omega

/-- Byte `b` of entry `i` lies at `4*i + b` (20_memory.md R51); both forms take `i` modulo 64. -/
theorem oamAddr_ofNat (i : Nat) (b : BitVec 2) :
    oamAddr (BitVec.ofNat 6 i) b = BitVec.ofNat 8 (4 * i + b.toNat) := by
  have hb : b.toNat < 2 ^ 2 := b.isLt
  apply BitVec.eq_of_toNat_eq
  simp only [oamAddr, BitVec.toNat_add, BitVec.toNat_mul, BitVec.toNat_setWidth, BitVec.toNat_ofNat]
  omega

theorem oamAddr_zero (i : BitVec 6) : oamAddr i 0 = 4#8 * i.setWidth 8 := BitVec.add_zero _

section
variable (s : State) (size : SpriteSize) (table : TableSelect) (scanline : U32)

theorem State.inRange_iff_row_lt (i : BitVec 6) : s.inRange size scanline i = true ↔
    (scanline.toNat + 2 ^ 32 - (s.oamEntry i).y.toNat) % 2 ^ 32 < if size = .large then 16 else 8 := by
  rw [State.inRange, decide_eq_true_iff, BitVec.lt_def, spriteRow_toNat, spriteHeight_toNat]

/-- On a scanline below Y the row wraps to 2^32 - 255 or more, so the one comparison bounds the scanline on both
sides. -/
theorem State.inRange_iff_interval (i : BitVec 6) : s.inRange size scanline i = true ↔
    (s.oamEntry i).y.toNat ≤ scanline.toNat ∧
      scanline.toNat < (s.oamEntry i).y.toNat + if size = .large then 16 else 8 := by
  have hy : (s.oamEntry i).y.toNat < 2 ^ 8 := (s.oamEntry i).y.isLt
  have hscanline : scanline.toNat < 2 ^ 32 := scanline.isLt
  rw [State.inRange_iff_row_lt]
  split <;> omega

/-! ### The entries in range -/

/-- The numbers of the entries in range, in ascending order. -/
def State.inRangeIndices : List Nat :=
  (List.range 64).filter fun i => s.inRange size scanline (BitVec.ofNat 6 i)

theorem State.filter_oamEntries : oamEntries.filter (s.inRange size scanline) =
    (s.inRangeIndices size scanline).map (BitVec.ofNat 6) :=
  List.filter_map

theorem State.lt_of_mem_inRangeIndices {i : Nat} (h : i ∈ s.inRangeIndices size scanline) : i < 64 :=
  List.mem_range.mp (List.mem_filter.mp h).1

/-- The list as the statements write it: by the rows, computed from the Y bytes. -/
theorem State.inRangeIndices_eq : s.inRangeIndices size scanline =
    (List.range 64).filter fun i => decide
      ((scanline.toNat + 2 ^ 32 - (s.memReadOam (BitVec.ofNat 8 (4 * i))).toNat) % 2 ^ 32 <
        if size = .large then 16 else 8) := by
  refine List.filter_congr fun i _ => ?_
  have hy : (s.oamEntry (BitVec.ofNat 6 i)).y = s.memReadOam (BitVec.ofNat 8 (4 * i)) :=
    congrArg s.memReadOam (oamAddr_ofNat i 0)
  rw [Bool.eq_iff_iff, State.inRange_iff_row_lt, hy, decide_eq_true_iff]

/-- Which entries are in range depends on the Y bytes alone (R137). -/
theorem State.inRangeIndices_congr {s s' : State}
    (h : ∀ i < 64, s'.memReadOam (BitVec.ofNat 8 (4 * i)) = s.memReadOam (BitVec.ofNat 8 (4 * i))) :
    s'.inRangeIndices size scanline = s.inRangeIndices size scanline := by
  rw [State.inRangeIndices_eq, State.inRangeIndices_eq]
  exact List.filter_congr fun i hi => by rw [h i (List.mem_range.mp hi)]

/-- No Y byte reaches scanline 271: the last row of the lowest large sprite is on 255 + 15. -/
theorem State.inRangeIndices_of_le (h : 271 ≤ scanline.toNat) : s.inRangeIndices size scanline = [] := by
  refine List.filter_eq_nil_iff.mpr fun i _ hi => ?_
  obtain ⟨-, hlt⟩ := (s.inRange_iff_interval size scanline _).mp hi
  have hy : (s.oamEntry (BitVec.ofNat 6 i)).y.toNat < 2 ^ 8 := (s.oamEntry _).y.isLt
  split at hlt <;> omega

/-! ### The scan, read off the entries in range -/

theorem State.scan_count :
    (s.scan size table scanline).count = (s.inRangeIndices size scanline).length := by
  rw [(s.scan_eq size table scanline).1, State.filter_oamEntries, List.length_map]

theorem State.scan_slot {k : Nat} (hk : k < 8) : (s.scan size table scanline).slots[k] =
    ((s.inRangeIndices size scanline)[k]?).elim Slot.zero
      fun i => s.slotFrom size table scanline (BitVec.ofNat 6 i) := by
  rw [(s.scan_eq size table scanline).2 k hk, State.filter_oamEntries, List.getElem?_map, Option.elim_map]
  rfl

theorem State.scan_slots : (s.scan size table scanline).slots = Vector.ofFn fun k : Fin 8 =>
    ((s.inRangeIndices size scanline)[k.val]?).elim Slot.zero
      fun i => s.slotFrom size table scanline (BitVec.ofNat 6 i) :=
  Vector.ext fun k hk => by rw [State.scan_slot, Vector.getElem_ofFn]

/-- The OAM index of a slot, filled or not, follows from the entries in range alone. -/
theorem State.oamIdx_scan_slot (k : Fin 8) : (s.scan size table scanline).slots[k].oamIdx =
    ((s.inRangeIndices size scanline)[k.val]?).elim 0#6 (BitVec.ofNat 6) := by
  rw [Fin.getElem_fin, State.scan_slot]
  cases (s.inRangeIndices size scanline)[k.val]? <;> rfl

theorem State.oamIdx_scan_slot_filled (k : Fin 8) (hk : k.val < (s.inRangeIndices size scanline).length) :
    some (s.scan size table scanline).slots[k].oamIdx.toNat = (s.inRangeIndices size scanline)[k.val]? := by
  have hlt := s.lt_of_mem_inRangeIndices size scanline (List.getElem_mem hk)
  rw [State.oamIdx_scan_slot, List.getElem?_eq_getElem hk, Option.elim_some, BitVec.toNat_ofNat,
    Nat.mod_eq_of_lt hlt]

/-- The slot of entry `i`, by the addresses of its bytes (R133). -/
theorem State.slotFrom_ofNat (i : Nat) :
    s.slotFrom size table scanline (BitVec.ofNat 6 i) =
      { pattern := s.fetchRow (BitVec.ofNat 6 i)
          (scanline - (s.memReadOam (BitVec.ofNat 8 (4 * i))).setWidth 32) size table
        posX := s.memReadOam (BitVec.ofNat 8 (4 * i + 3))
        prio := (s.memReadOam (BitVec.ofNat 8 (4 * i + 2))).getLsbD 5
        oamIdx := BitVec.ofNat 6 i } := by
  simp only [State.slotFrom, State.oamEntry, oamAddr_ofNat]
  rfl

end

/-! ### The count, the flag and the result word -/

theorem spriteCountOf_eq (n : Nat) : spriteCountOf n = BitVec.ofNat 8 (min n 8) := by
  apply BitVec.eq_of_toNat_eq
  rw [spriteCountOf_toNat, BitVec.toNat_ofNat]
  omega

/-- The flag lies above the count in the result word, so they do not overlap (30_encoding.md R79). -/
theorem evalWord_eq (n : Nat) : evalWord (spriteCountOf n) (overflowOf n) =
    BitVec.ofNat 32 (min n 8 + if 8 < n then 256 else 0) := by
  by_cases hn : 8 < n
  · simp [evalWord, spriteCountOf, overflowOf, hn, Nat.min_eq_right (Nat.le_of_lt hn)]
  · have hle : n ≤ 8 := Nat.le_of_not_lt hn
    interval_cases n <;> rfl

/-! ### What the scan reads -/

/-- Two states whose memories read alike scan alike (R136). -/
theorem State.scan_congr {s s' : State} (ho : ∀ a, s'.memReadOam a = s.memReadOam a)
    (hp : ∀ a, s'.memReadPat a = s.memReadPat a) (size : SpriteSize) (table : TableSelect)
    (scanline : U32) : s'.scan size table scanline = s.scan size table scanline := by
  have hentry (i) : s'.oamEntry i = s.oamEntry i := by simp only [State.oamEntry, ho]
  have hrange (i) : s'.inRange size scanline i = s.inRange size scanline i := by
    simp only [State.inRange, hentry]
  have hfetch (i row) : s'.fetchRow i row size table = s.fetchRow i row size table :=
    State.fetchRow_congr row size table hp (congrArg OamEntry.tile (hentry i))
      (congrArg OamEntry.attr (hentry i))
  have hslot (i) : s'.slotFrom size table scanline i = s.slotFrom size table scanline i := by
    simp only [State.slotFrom, hentry, hfetch]
  have hstep : s'.scanEntry size table scanline = s.scanEntry size table scanline := by
    funext a i
    simp only [State.scanEntry, hrange, hslot]
  rw [State.scan, State.scan, hstep]

/-! ### The statements -/

/-- Settles O21: the model's row and comparison, read as naturals. -/
theorem rangeCheckIsUnsigned : Obligations.RangeCheckIsUnsigned := by
  rintro s size scanline i _ _ rfl rfl
  rw [← oamAddr_zero]
  exact ⟨spriteRow_toNat scanline _, s.inRange_iff_row_lt size scanline i,
    s.inRange_iff_interval size scanline i⟩

/-- Settles O22: the scan of the model, read off the list of entries in range. -/
theorem evalKeepsFirstEight : Obligations.EvalKeepsFirstEight := by
  refine ⟨fun _ => decode_of_matches_row 7, ?_⟩
  rintro size table scanline s _ e rfl he
  obtain rfl : e = s.inRangeIndices size scanline := he.trans (s.inRangeIndices_eq size scanline).symm
  rw [exec_eval, State.scan_count, State.scan_slots, evalWord_eq, spriteCountOf_eq]
  simp only [State.slotFrom_ofNat]
  rfl

/-- Settles O23: each of them is a function of the list of entries in range, which the Y bytes determine. -/
theorem evalLaws : Obligations.EvalLaws := by
  rintro size table table' scanline s s' _ e rfl he hy
  obtain rfl : e = s.inRangeIndices size scanline := he.trans (s.inRangeIndices_eq size scanline).symm
  have hsame := State.inRangeIndices_congr size scanline hy
  have hcount : (s'.scan size table' scanline).count = (s.scan size table scanline).count := by
    rw [State.scan_count, State.scan_count, hsame]
  refine ⟨_, _, exec_eval size table scanline s, exec_eval size table' scanline s', ?_, ?_, fun k hk => ?_,
    congrArg spriteCountOf hcount, congrArg overflowOf hcount,
    congrArg (fun n => some (evalWord (spriteCountOf n) (overflowOf n))) hcount, fun k => ?_⟩
  · rw [State.result_spriteCount, State.setEvaluation_spriteCount, spriteCountOf_toNat, State.scan_count]
  · rw [State.result_overflow, State.setEvaluation_overflow, State.scan_count]
    exact decide_eq_true_iff
  · rw [State.result_spriteCount, State.setEvaluation_spriteCount, spriteCountOf_toNat, State.scan_count] at hk
    exact s.oamIdx_scan_slot_filled size table scanline k (by omega)
  · have h' := s'.oamIdx_scan_slot size table' scanline k
    rw [hsame] at h'
    exact h'.trans (s.oamIdx_scan_slot size table scanline k).symm

/-- Settles O24: EVAL writes what the scan gives, and the two scans are the same. -/
theorem evalIgnoresOldEvaluation : Obligations.EvalIgnoresOldEvaluation := by
  intro size table scanline s s' ho hp
  refine ⟨_, _, exec_eval size table scanline s, exec_eval size table scanline s', ?_⟩
  rw [State.scan_congr ho hp]
  exact ⟨rfl, rfl, rfl, rfl, rfl, rfl, rfl⟩

/-- Settles O25: past scanline 270 the list of entries in range is empty. -/
theorem evalPastVisibleLines : Obligations.EvalPastVisibleLines := by
  refine ⟨fun size table scanline s => ⟨_, exec_eval size table scanline s, fun hscanline => ?_⟩,
    fun size s i hy => ?_⟩
  · have hnone := s.inRangeIndices_of_le size scanline hscanline
    have hcount : (s.scan size table scanline).count = 0 := by rw [State.scan_count, hnone]; rfl
    rw [hcount]
    refine ⟨rfl, rfl, rfl, fun k => ?_⟩
    have hslot := s.scan_slot size table scanline k.isLt
    rwa [hnone] at hslot
  · refine ⟨(s.inRange_iff_interval size 245#32 i).mpr ?_, by rw [hy]; rfl⟩
    rw [hy]
    cases size <;> decide

end Sys2Proof.Machine
end

section
/-!
The sprite pattern fetch (42_pattern_fetch.md): the bytes and the bits of ATTR FetchRow reads, the plane addresses
in unbounded arithmetic, what the flips and a uniform pattern memory do to a row, and the statements of the family.
-/
namespace Sys2Proof.Machine

/-! ### The OAM bytes FetchRow reads -/

theorem oamAddr_eq_ofNat (i : BitVec 6) (b : BitVec 2) :
    oamAddr i b = BitVec.ofNat 8 (4 * i.toNat + b.toNat) := by
  rw [← oamAddr_ofNat, BitVec.ofNat_toNat, BitVec.setWidth_eq]

theorem State.oamEntry_tile (s : State) (i : BitVec 6) :
    (s.oamEntry i).tile = s.memReadOam (BitVec.ofNat 8 (4 * i.toNat + 1)) :=
  congrArg s.memReadOam (oamAddr_eq_ofNat i 1)

theorem State.oamEntry_attr (s : State) (i : BitVec 6) :
    (s.oamEntry i).attr = s.memReadOam (BitVec.ofNat 8 (4 * i.toNat + 2)) :=
  congrArg s.memReadOam (oamAddr_eq_ofNat i 2)

/-! ### What FetchRow takes from ATTR -/

/-- Of ATTR a nibble takes HFLIP and PAL (R165, R166). -/
theorem pixelNibble_congr {attr attr' : Byte} (hflip : attrHflip attr' = attrHflip attr)
    (hpal : attrPal attr' = attrPal attr) : pixelNibble attr' = pixelNibble attr := by
  funext lo hi c
  rw [pixelNibble, pixelNibble, columnBit, columnBit, hflip, hpal]

/-- FetchRow is determined by pattern memory, the tile, the row after the flip, HFLIP and PAL. -/
theorem State.fetchRow_eq_of_flippedRow_eq {s s' : State} {i : BitVec 6} {row row' : U32} {size : SpriteSize}
    (table : TableSelect) (hp : ∀ a, s'.memReadPat a = s.memReadPat a)
    (ht : (s'.oamEntry i).tile = (s.oamEntry i).tile)
    (hrow : flippedRow size (s'.oamEntry i).attr row' = flippedRow size (s.oamEntry i).attr row)
    (hflip : attrHflip (s'.oamEntry i).attr = attrHflip (s.oamEntry i).attr)
    (hpal : attrPal (s'.oamEntry i).attr = attrPal (s.oamEntry i).attr) :
    s'.fetchRow i row' size table = s.fetchRow i row size table := by
  simp only [State.fetchRow, State.spriteTileRow, hp, ht, hrow, pixelNibble_congr hflip hpal]

theorem attrVflip_and_mask (attr : Byte) : attrVflip (attr &&& 0b11000011#8) = attrVflip attr := by
  simp [attrVflip]

theorem attrHflip_and_mask (attr : Byte) : attrHflip (attr &&& 0b11000011#8) = attrHflip attr := by
  simp [attrHflip]

theorem attrPal_and_mask (attr : Byte) : attrPal (attr &&& 0b11000011#8) = attrPal attr := by
  rw [attrPal, BitVec.extractLsb'_and]
  exact BitVec.and_allOnes

theorem setWidth_and_three (attr : Byte) : (attr &&& 3#8).setWidth 32 = (attrPal attr).setWidth 32 := by
  apply BitVec.eq_of_toNat_eq
  simp only [attrPal, BitVec.toNat_setWidth, BitVec.toNat_and, BitVec.toNat_ofNat, BitVec.extractLsb'_toNat,
    Nat.shiftRight_zero]
  exact congrArg (· % 2 ^ 32) (Nat.and_two_pow_sub_one_eq_mod attr.toNat 2)

/-! ### The plane addresses -/

/-- The row after the vertical flip, with no wrap (R162). -/
theorem flippedRow_toNat {size : SpriteSize} {row : U32} (h : row < spriteHeight size) (attr : Byte) :
    (flippedRow size attr row).toNat =
      if attrVflip attr then (spriteHeight size).toNat - 1 - row.toNat else row.toNat := by
  unfold flippedRow
  split
  · cases size <;> simp only [spriteHeight] at h ⊢ <;> bv_omega
  · rfl

theorem tileRow_base_toNat (size : SpriteSize) (table : TableSelect) (tile : Byte) (r : U32) :
    (tileRow size table tile r).base.toNat =
      if size = .large then tile.toNat % 2 * 0x1000 else if table = .upper then 0x1000 else 0 := by
  cases size with
  | small => cases table <;> rfl
  | large =>
    have hbit : tile.getLsbD 0 = decide (tile.toNat % 2 = 1) := Nat.testBit_zero _
    have hbase : (tileRow .large table tile r).base =
        tableBase (if tile.getLsbD 0 then .upper else .lower) := by
      rw [tileRow]
      split <;> rfl
    rw [hbase, hbit]
    obtain heven | hodd := Nat.mod_two_eq_zero_or_one tile.toNat
    · simp [heven, tableBase]
    · simp [hodd, tableBase]

theorem toNat_and_fe (tile : Byte) : (tile &&& 0xFE#8).toNat = tile.toNat - tile.toNat % 2 := by
  have hshift : tile &&& 0xFE#8 = tile >>> 1 <<< 1 := by
    ext j hj
    interval_cases j <;> simp
  have hlt : tile.toNat < 2 ^ 8 := tile.isLt
  rw [hshift, BitVec.toNat_shiftLeft, BitVec.toNat_ushiftRight, Nat.shiftRight_eq_div_pow, Nat.shiftLeft_eq]
  omega

/-- The tile and the row within it, as one offset into the table: in large mode the tile's bit 0 is cleared and
rows 8 and up lie in the tile after (R163). -/
theorem tileRow_offset {size : SpriteSize} {r : U32} (h : r < spriteHeight size) (table : TableSelect)
    (tile : Byte) :
    (tileRow size table tile r).tile.toNat * 16 + (tileRow size table tile r).row.toNat =
      if size = .large then (tile.toNat - tile.toNat % 2) * 16 + r.toNat / 8 * 16 + r.toNat % 8
      else tile.toNat * 16 + r.toNat := by
  cases size with
  | small => rfl
  | large =>
    have heven := toNat_and_fe tile
    have htile : tile.toNat < 2 ^ 8 := tile.isLt
    simp only [spriteHeight] at h
    simp only [tileRow, if_true]
    generalize tile &&& 0xFE#8 = even at heven ⊢
    split <;> bv_omega

theorem lowPlaneAddr_eq_ofNat (p : TileRow) :
    lowPlaneAddr p = BitVec.ofNat 16 (p.base.toNat + (p.tile.toNat * 16 + p.row.toNat)) := by
  simp [lowPlaneAddr, BitVec.ofNat_add, BitVec.ofNat_mul, BitVec.add_assoc]

theorem highPlaneAddr_eq_ofNat {p : TileRow} {n : Nat} (h : lowPlaneAddr p = BitVec.ofNat 16 n) :
    highPlaneAddr p = BitVec.ofNat 16 (n + 8) := by
  rw [highPlaneAddr, h, BitVec.ofNat_add]

/-! ### The flips -/

theorem attrVflip_or_hflip (attr : Byte) : attrVflip (attr ||| 0x40#8) = attrVflip attr := by
  simp [attrVflip]

theorem attrHflip_or_vflip (attr : Byte) : attrHflip (attr ||| 0x80#8) = attrHflip attr := by
  simp [attrHflip]

theorem attrPal_or {flip : Byte} (h : attrPal flip = 0#2) (attr : Byte) :
    attrPal (attr ||| flip) = attrPal attr := by
  rw [attrPal, BitVec.extractLsb'_or, ← attrPal, ← attrPal, h, BitVec.or_zero]

/-- Mirroring the row by hand is what VFLIP does (R162, R170). -/
theorem flippedRow_or_vflip {attr : Byte} (h : attr.getLsbD 7 = false) (size : SpriteSize) (row : U32) :
    flippedRow size (attr ||| 0x80#8) row = flippedRow size attr (spriteHeight size - 1#32 - row) := by
  have hset : attrVflip (attr ||| 0x80#8) = true := by simp [attrVflip]
  rw [flippedRow, flippedRow, if_pos hset, attrVflip, h]
  rfl

/-- HFLIP sends column `c` to the bit that column `7-c` takes without it (R165, R170). -/
theorem pixelNibble_or_hflip {attr : Byte} (h : attr.getLsbD 6 = false) (lo hi : Byte) {c : Nat} (hc : c < 8) :
    pixelNibble (attr ||| 0x40#8) lo hi c = pixelNibble attr lo hi (7 - c) := by
  have hset : attrHflip (attr ||| 0x40#8) = true := by simp [attrHflip]
  have hbit : columnBit (attr ||| 0x40#8) c = columnBit attr (7 - c) := by
    rw [columnBit, columnBit, if_pos hset, attrHflip, h]
    exact (Nat.sub_sub_self (Nat.le_of_lt_succ hc)).symm
  rw [pixelNibble, pixelNibble, attrPal_or rfl, hbit]

/-! ### Uniform pattern memory -/

/-- Where every plane bit is `b`, every column has the nibble PAL, `b`, `b`. -/
theorem State.pixelColumn_fetchRow_of_uniform {s : State} {v : Byte} {b : Bool}
    (hp : ∀ a, s.memReadPat a = v) (hv : ∀ j < 8, v.getLsbD j = b) (i : BitVec 6) (row : U32)
    (size : SpriteSize) (table : TableSelect) {c : Nat} (hc : c < 8) :
    pixelColumn (s.fetchRow i row size table) c =
      attrPal (s.oamEntry i).attr ++ BitVec.ofBool b ++ BitVec.ofBool b := by
  have hbit : v.getLsbD (columnBit (s.oamEntry i).attr c) = b := hv _ (by rw [columnBit]; split <;> omega)
  rw [State.pixelColumn_fetchRow _ _ _ _ _ _ hc, hp, hp, pixelNibble, hbit]

theorem pixelColumn_palRow (b : Bool) (pal : BitVec 2) {c : Nat} (hc : c < 8) :
    pixelColumn (0x44444444#32 * pal.setWidth 32 ||| if b then 0x33333333#32 else 0#32) c =
      pal ++ BitVec.ofBool b ++ BitVec.ofBool b := by
  revert b pal c; decide

theorem palNibble_eq (b : Bool) (attr : Byte) :
    attr.setWidth 4 <<< 2 ||| (if b then 3#4 else 0#4) =
      attrPal attr ++ BitVec.ofBool b ++ BitVec.ofBool b := by
  have hpal : attr.setWidth 4 <<< 2 = (attrPal attr).setWidth 4 <<< 2 := by
    ext j hj
    interval_cases j <;> simp [attrPal]
  rw [hpal]
  generalize attrPal attr = pal
  revert b pal
  decide

/-- FETCH over a pattern memory whose bits are all `b`: the planes give each nibble its low bits (R169). -/
theorem exec_fetch_of_uniform {s : State} {v : Byte} {b : Bool} (hp : ∀ a, s.memReadPat a = v)
    (hv : ∀ j < 8, v.getLsbD j = b) {size : SpriteSize} {row : U32} (hrow : row < spriteHeight size)
    (i : BitVec 6) (table : TableSelect) :
    ∃ t : State, exec (.fetch size table i row) s = .next t ∧
      t.out = some (0x44444444#32 * ((s.oamEntry i).attr &&& 3#8).setWidth 32 |||
        if b then 0x33333333#32 else 0#32) ∧
      ∀ c < 8, pixelColumn (s.fetchRow i row size table) c =
        (s.oamEntry i).attr.setWidth 4 <<< 2 ||| if b then 3#4 else 0#4 := by
  have hcol (c : Nat) (hc : c < 8) := s.pixelColumn_fetchRow_of_uniform hp hv i row size table hc
  refine ⟨_, exec_fetch_of_lt hrow table i s, congrArg some ?_, fun c hc => ?_⟩
  · exact eq_of_pixelColumn_eq _ _ fun c hc => by
      rw [hcol c hc, setWidth_and_three, pixelColumn_palRow b _ hc]
  · rw [hcol c hc, palNibble_eq]

/-! ### The statements -/

theorem not_lt_spriteHeight {size : SpriteSize} {row : U32}
    (h : (if size = .large then 16 else 8) ≤ row.toNat) : ¬ row < spriteHeight size := by
  rw [BitVec.lt_def, spriteHeight_toNat]
  exact Nat.not_lt.mpr h

/-- Settles O27: the result is the row the model draws. -/
theorem fetchOutOfRangeDraws : Obligations.FetchOutOfRangeDraws := fun _ table i _ s hrow =>
  ⟨Config.drawRow s.draws, _, exec_fetch_of_not_lt (not_lt_spriteHeight hrow) table i s, rfl, rfl⟩

/-- Settles O26: the addresses of the two planes are the statement's, so their bytes are, and the column is theirs. -/
theorem fetchDecodesRow : Obligations.FetchDecodesRow := by
  refine ⟨fun _ => decode_of_matches_row 8, ?_, fetchOutOfRangeDraws⟩
  rintro size table i row s _ r r' base tile attr lo hi rfl hrow hattr htile hr hbase hr' hlo hhi
  have hlt : row < spriteHeight size := by rwa [BitVec.lt_def, spriteHeight_toNat]
  rw [← s.oamEntry_attr i] at hattr
  rw [← s.oamEntry_tile i] at htile
  have hflip : (flippedRow size attr row).toNat = r := by
    rw [flippedRow_toNat hlt, spriteHeight_toNat, hr, attrVflip]
  have hlow : lowPlaneAddr (s.spriteTileRow i row size table) = BitVec.ofNat 16 (base + r') := by
    rw [lowPlaneAddr_eq_ofNat, State.spriteTileRow, tileRow_base_toNat,
      tileRow_offset (flippedRow_lt hlt _), ← hattr, ← htile, hflip, ← hbase, ← hr']
  refine ⟨_, exec_fetch_of_lt hlt table i s, rfl, fun c hc => ?_⟩
  rw [hlo, hhi, ← hlow, ← highPlaneAddr_eq_ofNat hlow, hattr]
  exact s.pixelColumn_fetchRow i row size table c hc

/-- Settles O29: VFLIP changes the row that is read and nothing else, HFLIP the bit each column takes. -/
theorem flipsMirror : Obligations.FlipsMirror := by
  intro s s' i row size table _ hp ht
  refine ⟨fun hclear hset c hc => ?_, fun hclear hset => ?_⟩
  · have htileRow : s'.spriteTileRow i row size table = s.spriteTileRow i row size table := by
      rw [State.spriteTileRow, State.spriteTileRow, flippedRow, flippedRow, ht, hset, attrVflip_or_hflip]
    rw [State.pixelColumn_fetchRow _ _ _ _ _ _ hc, State.pixelColumn_fetchRow _ _ _ _ _ _ (by omega),
      htileRow, hp, hp, hset, pixelNibble_or_hflip hclear _ _ hc]
  · refine State.fetchRow_eq_of_flippedRow_eq table hp ht ?_ ?_ ?_
    · rw [hset, flippedRow_or_vflip hclear]
    · rw [hset, attrHflip_or_vflip]
    · rw [hset, attrPal_or rfl]

/-- Settles O30: the two memories are the two values of the one plane bit. -/
theorem uniformPatternMemory : Obligations.UniformPatternMemory := fun s i row size table hrow =>
  ⟨fun hp => by simpa using exec_fetch_of_uniform (b := false) hp (by decide) hrow i table,
    fun hp => exec_fetch_of_uniform (b := true) hp (by decide) hrow i table⟩

/-- Settles O31: the mask keeps the four bits of ATTR that FetchRow depends on. -/
theorem fetchReadsTileAndFourAttributeBits : Obligations.FetchReadsTileAndFourAttributeBits := by
  intro s s' i row size table hp ht ha
  rw [← State.oamEntry_tile, ← State.oamEntry_tile] at ht
  rw [← State.oamEntry_attr, ← State.oamEntry_attr] at ha
  refine State.fetchRow_eq_of_flippedRow_eq table hp ht ?_ ?_ ?_
  · rw [flippedRow, flippedRow, ← attrVflip_and_mask, ha, attrVflip_and_mask]
  · rw [← attrHflip_and_mask, ha, attrHflip_and_mask]
  · rw [← attrPal_and_mask, ha, attrPal_and_mask]

end Sys2Proof.Machine
end

section
/-!
The control of a step (43_control.md): no valid command is NOP (R190), and the core stops for a reserved word only
(R191), so that a host that issues none (60_exceptions.md R213) never stops it.
-/
namespace Sys2Proof.Machine

/-! ### No command -/

theorem commandStep_none (s : State) : commandStep s none = exec .nop s := rfl

/-- Settles O37: NOP's word is the first row of the opcode map, and no command is the first branch of
`commandStep`. -/
theorem noCommandIsNop : Obligations.NoCommandIsNop := by
  refine ⟨fun _ => decode_of_matches_row 0, exec_nop, fun s hs hreset hcmd => ?_⟩
  rw [step_of_command hs hreset, hcmd, commandStep_none]

/-! ### A step with a legal input -/

theorem HostInput.legal_iff (inp : HostInput) :
    inp.legal = true ↔ ∀ w, inp.cmd = some w → reservedWord w = false := by
  cases hcmd : inp.cmd <;> simp [HostInput.legal, hcmd]

theorem exists_command_of_not_reserved {w : CmdWord} (h : reservedWord w = false) :
    ∃ i, decode w = .command i := by
  cases hd : decode w with
  | command i => exact ⟨i, rfl⟩
  | reserved r =>
    obtain rfl := eq_of_decode_reserved hd
    rw [(decode_eq_reserved_iff r).mp hd] at h
    cases h

/-- A step whose input brings no reserved word goes on: every command completes, and reset always does. -/
theorem exists_step_next_of_legal {s : State} (hs : s.refused = false) (h : s.nextInput.legal = true) :
    ∃ t, step s = .next t := by
  cases hreset : s.nextInput.reset with
  | true => exact ⟨_, step_of_reset hs hreset⟩
  | false =>
    rw [step_of_command hs hreset]
    cases hcmd : s.nextInput.cmd with
    | none => exact ⟨_, exec_nop _⟩
    | some w =>
      obtain ⟨i, hi⟩ := exists_command_of_not_reserved ((HostInput.legal_iff _).mp h w hcmd)
      obtain ⟨t, ht, -⟩ := exec_effect i s.beginStep
      exact ⟨t, (commandStep_of_decode_command hi _).trans ht⟩

/-- Every step that goes on takes one input of the host's. -/
theorem inputs_of_step_next {s t : State} (h : step s = .next t) : t.inputs = s.inputs.tail := by
  obtain ⟨-, ⟨-, rfl⟩ | ⟨-, i, hexec, -⟩⟩ := step_cases h
  · rw [State.applyReset_inputs, State.beginStep_inputs]
  · obtain ⟨-, -, -, hinputs⟩ := (effect_of_exec hexec).keeps
    rw [hinputs, State.beginStep_inputs]

/-! ### A run with legal inputs -/

/-- The step takes the idle input, which is legal, where the host has given none. -/
theorem State.legal_nextInput {s : State} (h : ∀ inp ∈ s.inputs, inp.legal = true) :
    s.nextInput.legal = true := by
  rw [State.nextInput]
  cases hinputs : s.inputs with
  | nil => rfl
  | cons inp _ => exact h inp (hinputs ▸ List.mem_cons_self)

theorem runSteps_succ_of_next {s t : State} (h : step s = .next t) (k : Nat) :
    runSteps (k + 1) s = runSteps k t := by
  rw [runSteps, h]

/-- Settles O47, by induction on the number of steps: a step with a legal input goes on to an unmarked state, and
the inputs still to come are a tail of the legal ones. -/
theorem legalRunNeverStops : Obligations.LegalRunNeverStops := by
  intro k
  induction k with
  | zero => exact fun s hs _ => ⟨s, rfl, hs⟩
  | succ k ih =>
    intro s hs hlegal
    obtain ⟨-, -, -, unmarked_of_step_next⟩ := refusedMarkIsNeverCleared
    obtain ⟨t, ht⟩ := exists_step_next_of_legal hs (State.legal_nextInput hlegal)
    obtain ⟨-, hunmarked⟩ := unmarked_of_step_next s t ht
    have htail : ∀ inp ∈ t.inputs, inp.legal = true := fun inp hinp =>
      hlegal inp (List.mem_of_mem_tail (inputs_of_step_next ht ▸ hinp))
    rw [runSteps_succ_of_next ht]
    exact ih t hunmarked htail

end Sys2Proof.Machine
end

section
/-!
No command faults or waits (60_exceptions.md R201, 70_reset_and_hazards.md R247).
-/
namespace Sys2Proof.Machine

/-- Settles O32: every command completes with one of the effects of `ExecEffect`, and none of them writes the mark
REFUSED or the host's inputs. -/
theorem everyCommandCompletes : Obligations.EveryCommandCompletes := by
  intro i s
  obtain ⟨t, ht, heffect⟩ := exec_effect i s
  obtain ⟨-, -, hrefused, hinputs⟩ := heffect.keeps
  exact ⟨t, ht, hrefused, hinputs⟩

end Sys2Proof.Machine
end

section
/-!
Reset in a step (70_reset_and_hazards.md R230, R232), and how long the results of an evaluation hold (R244).
-/
namespace Sys2Proof.Machine

/-! ### Reset -/

theorem State.applyReset_eq (s : State) : s.applyReset = { s with
    high32 := 0#32, low32 := 0#32, slots := Vector.ofFn fun _ => Slot.zero
    spriteCount := 0#8, overflow := false, out := none } := by
  have hslots : Vector.replicate 8 Slot.zero = Vector.ofFn fun _ : Fin 8 => Slot.zero := by
    ext k hk
    rw [Vector.getElem_replicate, Vector.getElem_ofFn]
  rw [State.applyReset, hslots]

/-- Settles O38: a step with reset asserted ends in `applyReset` of the state it starts from, whatever word comes
with it, so the hypothesis on the word is not used. -/
theorem resetWinsOverCommand : Obligations.ResetWinsOverCommand := by
  intro s hs hreset _
  refine ⟨?_, s.beginStep_frame, fun hactions => ?_⟩
  · rw [step_of_reset hs hreset, State.applyReset_eq, Slot.zero]
  · rw [s.beginStep_of_no_action hactions, State.dropInput]

/-- Settles O39: the branch of the step for reset does not look at the word, so a reserved one neither stops the
step nor sets the mark. -/
theorem resetDiscardsReservedWord : Obligations.ResetDiscardsReservedWord := by
  intro s w hs hreset _ _
  have hunmarked : s.beginStep.applyReset.refused = false := by
    rw [State.applyReset_refused, State.beginStep_refused, hs]
  exact ⟨_, step_of_reset hs hreset, hunmarked, rfl, rfl, s.beginStep.applyReset_slot, rfl, rfl, rfl⟩

/-! ### The evaluation between two EVALs -/

/-- Settles O48: the step runs a command that is no EVAL, which writes no slot, count or flag (R40), and no more do
the host's actions before it. -/
theorem evaluationHeldBetweenEvals : Obligations.EvaluationHeldBetweenEvals := by
  intro s t h hreset hcmd
  obtain ⟨-, ⟨hasserted, -⟩ | ⟨-, i, hexec, hi⟩⟩ := step_cases h
  · exact absurd (hreset.symm.trans hasserted) Bool.false_ne_true
  · have heval : isEval i = false := by
      obtain ⟨-, rfl⟩ | ⟨w, hw, hdecode⟩ := hi
      · rfl
      · exact hcmd w i hw hdecode
    obtain ⟨-, -, evaluation_of_not_eval, -, -⟩ := writesFollowAccessTable i s.beginStep t hexec
    obtain ⟨hslots, hcount, hoverflow⟩ := evaluation_of_not_eval heval
    exact ⟨hslots.trans s.beginStep_slots, hcount.trans s.beginStep_spriteCount,
      hoverflow.trans s.beginStep_overflow⟩

end Sys2Proof.Machine
end
